-- ==== Sys2Proof/Word.lean ====
section
/-! DEFINITION. The widths of the block's values (00_scope R10, 92 D25): bytes and 16-bit framebuffer
indices, and the eight bytes of one data frame. -/

namespace Sys2Proof

/-- A byte is 8 bits (R10). -/
abbrev Byte := BitVec 8

/-- A framebuffer byte index, computed in 16 bits (R50, R52, R149). -/
abbrev Index := BitVec 16

/-- The eight raw bytes of one data request, `req_data[0..7]` (10_state R30). -/
structure Data8 where
  d0 : Byte := 0
  d1 : Byte := 0
  d2 : Byte := 0
  d3 : Byte := 0
  d4 : Byte := 0
  d5 : Byte := 0
  d6 : Byte := 0
  d7 : Byte := 0
deriving DecidableEq, Repr

/-- The bytes in bus order (20_memory R55). -/
def Data8.toList (d : Data8) : List Byte := [d.d0, d.d1, d.d2, d.d3, d.d4, d.d5, d.d6, d.d7]

end Sys2Proof
end

