-- ==== Sys2Proof/Config.lean ====
section
/-! DEFINITION. The implementation parameters of 00_scope R6 as plain data, the names they range over,
and the OPEN parameters the spec gives no instance of, as opaque constants. -/

namespace Sys2Proof

/-- The 25 command tags, in the order of 30_encoding R85. -/
inductive Tag where
  | columnAddress | rowAddress | contrast | remap | startLine | displayOffset
  | normalDisplay | allOn | allOff | inverseDisplay | muxRatio | internalVdd | externalVdd
  | displayOff | displayOn | phaseLength | clockOsc | gpio | secondPrecharge | linearLut
  | prechargeVoltage | vcomh | functionSelectB | unlock | lock
deriving DecidableEq, Repr

/-- The arity classes of 30_encoding R85: no argument, one value byte, a fixed value, a window. -/
inductive ArityClass where
  | n | v | f | w
deriving DecidableEq, Repr

/-- `WINDOW_ERR_POLICY` (42_bus R166). -/
inductive WindowErrPolicy where
  | abort | record | discard
deriving DecidableEq, Repr, Inhabited

/-- The constants that come from one source revision and must not be mixed (43_init R194). -/
structure Revision where
  ctrlCmd : Byte
  initMux : Byte
  initPhase : Byte
  initVcomh : Byte
  initPrechargeV : Byte
deriving DecidableEq, Repr

/-- The parameters of R6 that are held in no configuration register. `opc` is the table of 25 opcode
bytes in tag order, `fixv` the table of 4 fixed values in tag order. -/
structure Params where
  rev : Revision
  ctrlData : Byte
  opc : List Byte
  fixv : List Byte
  initContrast : Byte
  initRemap : Byte
  initStartLine : Byte
  initOffset : Byte
  initClock : Byte
  initPrecharge2 : Byte
  initFuncB : Byte
  windowErrPolicy : WindowErrPolicy
deriving DecidableEq, Repr

/-- The configuration argument of a construction (00_scope R6, 70_reset R240), legal or not. -/
structure BlockConfig where
  width : Nat
  height : Nat
  targetAddr : Byte
  params : Params
deriving DecidableEq, Repr

/-- Which of the two command control bytes the revision uses (D2, entry 1). -/
opaque Config.ctrlCmdIsZero : Bool
/-- `INIT_MUX` of the revision (D15, entry 1). -/
opaque Config.initMux : Byte
/-- `INIT_PHASE` of the revision (D15, entry 1). -/
opaque Config.initPhase : Byte
/-- `INIT_VCOMH` of the revision (D15, entry 1). -/
opaque Config.initVcomh : Byte
/-- `INIT_PRECHARGE_V` of the revision (D15, entry 1). -/
opaque Config.initPrechargeV : Byte
/-- `INIT_CONTRAST` (D15, entry 1). -/
opaque Config.initContrast : Byte
/-- `INIT_REMAP` (D15, entry 1). -/
opaque Config.initRemap : Byte
/-- `INIT_START_LINE` (D15, entry 1). -/
opaque Config.initStartLine : Byte
/-- `INIT_OFFSET` (D15, entry 1). -/
opaque Config.initOffset : Byte
/-- `INIT_CLOCK` (D15, entry 1). -/
opaque Config.initClock : Byte
/-- `INIT_PRECHARGE2` (D15, entry 1). -/
opaque Config.initPrecharge2 : Byte
/-- `INIT_FUNC_B` (D15, entry 1). -/
opaque Config.initFuncB : Byte
/-- `WINDOW_ERR_POLICY` (D14, entry 1). -/
opaque Config.windowErrPolicy : WindowErrPolicy

/-- `CTRL_CMD` of the reset instance: 0x80 or 0x00, and nothing says which (D2, entry 1). -/
def Config.ctrlCmd : Byte := if Config.ctrlCmdIsZero then 0x00 else 0x80

/-- The revision of the reset instance (43_init R194, entry 1). -/
def Config.revision : Revision where
  ctrlCmd := Config.ctrlCmd
  initMux := Config.initMux
  initPhase := Config.initPhase
  initVcomh := Config.initVcomh
  initPrechargeV := Config.initPrechargeV

end Sys2Proof
end

