-- ==== Sys2Proof/Syntax.lean ====
section
/-! DEFINITION. The instructions of spec/opcode_table.json, one constructor a row, and the raw fields of
the two input ports and of the encoder's output. -/

namespace Sys2Proof

/-- The block's instructions (00_scope R3): 25 command tags, which the encoder maps to frames, and 6
requests of the host. Class V commands carry `p0` only, classes N and F carry nothing (30_encoding R87). -/
inductive Instr where
  | columnAddress (start stop : Byte)
  | rowAddress (start stop : Byte)
  | contrast (v : Byte)
  | remap (v : Byte)
  | startLine (v : Byte)
  | displayOffset (v : Byte)
  | normalDisplay
  | allOn
  | allOff
  | inverseDisplay
  | muxRatio (v : Byte)
  | internalVdd
  | externalVdd
  | displayOff
  | displayOn
  | phaseLength (v : Byte)
  | clockOsc (v : Byte)
  | gpio (v : Byte)
  | secondPrecharge (v : Byte)
  | linearLut
  | prechargeVoltage (v : Byte)
  | vcomh (v : Byte)
  | functionSelectB (v : Byte)
  | unlock
  | lock
  | sendCmd (tag : BitVec 5) (p0 p1 : Byte)
  | sendData (d : Data8)
  | setPixel (x y value : Byte)
  | drawPixel (sx sy : BitVec 32) (value : Byte)
  | flush
  | init
deriving DecidableEq, Repr

/-- The request port's fields (10_state R30). A field the operation does not use is ignored. -/
structure Request where
  op : BitVec 3
  tag : BitVec 5 := 0
  p0 : Byte := 0
  p1 : Byte := 0
  data : Data8 := {}
  x : Byte := 0
  y : Byte := 0
  sx : BitVec 32 := 0
  sy : BitVec 32 := 0
  value : Byte := 0
deriving DecidableEq, Repr

/-- The input of the stand-alone encoder port (10_state R35). -/
structure EncQuery where
  tag : BitVec 5
  p0 : Byte
  p1 : Byte
deriving DecidableEq, Repr

/-- The encoder's output, `enc_frame[0..3]` and `enc_len` (10_state R35, 40_command_encoder R100). -/
structure EncOut where
  b0 : Byte
  b1 : Byte
  b2 : Byte
  b3 : Byte
  len : BitVec 3
deriving DecidableEq, Repr

/-- The full 4-byte array, padding included (30_encoding R84). -/
def EncOut.array (e : EncOut) : List Byte := [e.b0, e.b1, e.b2, e.b3]

/-- The bytes that are sent, `frame[0..n-1]` (40_command_encoder R101). -/
def EncOut.frame (e : EncOut) : List Byte := e.array.take e.len.toNat

end Sys2Proof
end

