-- ==== Sys2Proof/WellFormed.lean ====
section
/-! DEFINITION. Which instructions are well formed: SEND_CMD names one of the 25 tags (30_encoding R85,
R91). Every other operand is legal at every value of its width (R87, R90). -/

namespace Sys2Proof

/-- The well-formedness check. -/
def Instr.wellFormed : Instr → Bool
  | .columnAddress _ _ => true
  | .rowAddress _ _ => true
  | .contrast _ => true
  | .remap _ => true
  | .startLine _ => true
  | .displayOffset _ => true
  | .normalDisplay => true
  | .allOn => true
  | .allOff => true
  | .inverseDisplay => true
  | .muxRatio _ => true
  | .internalVdd => true
  | .externalVdd => true
  | .displayOff => true
  | .displayOn => true
  | .phaseLength _ => true
  | .clockOsc _ => true
  | .gpio _ => true
  | .secondPrecharge _ => true
  | .linearLut => true
  | .prechargeVoltage _ => true
  | .vcomh _ => true
  | .functionSelectB _ => true
  | .unlock => true
  | .lock => true
  | .sendCmd tag _ _ => decide (tag.toNat < 25)
  | .sendData _ => true
  | .setPixel _ _ _ => true
  | .drawPixel _ _ _ => true
  | .flush => true
  | .init => true

end Sys2Proof
end

