-- ==== Sys2Proof/Decode.lean ====
section
/-! DEFINITION. The encodings of spec/30_encoding.md: the tag table, the default opcode table, the
decoder of the two input ports and of a command frame, the encoder, and the layout of an opcode-table
word. -/

namespace Sys2Proof

/-! ### The tag table (30_encoding R85) -/

/-- The 25 tags in code order. -/
def Tag.all : List Tag :=
  [.columnAddress, .rowAddress, .contrast, .remap, .startLine, .displayOffset,
   .normalDisplay, .allOn, .allOff, .inverseDisplay, .muxRatio, .internalVdd, .externalVdd,
   .displayOff, .displayOn, .phaseLength, .clockOsc, .gpio, .secondPrecharge, .linearLut,
   .prechargeVoltage, .vcomh, .functionSelectB, .unlock, .lock]

/-- The tag code of R85. -/
def Tag.code : Tag → BitVec 5
  | .columnAddress => 0
  | .rowAddress => 1
  | .contrast => 2
  | .remap => 3
  | .startLine => 4
  | .displayOffset => 5
  | .normalDisplay => 6
  | .allOn => 7
  | .allOff => 8
  | .inverseDisplay => 9
  | .muxRatio => 10
  | .internalVdd => 11
  | .externalVdd => 12
  | .displayOff => 13
  | .displayOn => 14
  | .phaseLength => 15
  | .clockOsc => 16
  | .gpio => 17
  | .secondPrecharge => 18
  | .linearLut => 19
  | .prechargeVoltage => 20
  | .vcomh => 21
  | .functionSelectB => 22
  | .unlock => 23
  | .lock => 24

/-- The tag a code selects; codes 25..31 select none (R91). -/
def Tag.ofCode (c : BitVec 5) : Option Tag := Tag.all[c.toNat]?

/-- The class column of R85. -/
def Tag.arity : Tag → ArityClass
  | .columnAddress => .w
  | .rowAddress => .w
  | .contrast => .v
  | .remap => .v
  | .startLine => .v
  | .displayOffset => .v
  | .normalDisplay => .n
  | .allOn => .n
  | .allOff => .n
  | .inverseDisplay => .n
  | .muxRatio => .v
  | .internalVdd => .f
  | .externalVdd => .f
  | .displayOff => .n
  | .displayOn => .n
  | .phaseLength => .v
  | .clockOsc => .v
  | .gpio => .v
  | .secondPrecharge => .v
  | .linearLut => .n
  | .prechargeVoltage => .v
  | .vcomh => .v
  | .functionSelectB => .v
  | .unlock => .f
  | .lock => .f

/-- The frame length of a class (30_encoding R88). -/
def ArityClass.frameLen : ArityClass → Nat
  | .n => 2
  | .v => 3
  | .f => 3
  | .w => 4

/-- Where a class F tag's byte stands in FIXV, in tag order; the other classes have none. -/
def Tag.fixvIndex : Tag → Nat
  | .internalVdd => 0
  | .externalVdd => 1
  | .unlock => 2
  | .lock => 3
  | _ => 4

/-- The default instance of OPC (30_encoding R86), general knowledge of the controller family and not
of the source: PRESUMED, unsafe, entry 2. -/
def defaultOpc : List Byte :=
  [0x15, 0x75, 0x81, 0xA0, 0xA1, 0xA2, 0xA4, 0xA5, 0xA6, 0xA7, 0xA8, 0xAB, 0xAB,
   0xAE, 0xAF, 0xB1, 0xB3, 0xB5, 0xB6, 0xB9, 0xBC, 0xBE, 0xD5, 0xFD, 0xFD]

/-- The default instance of FIXV (R86), in tag order: PRESUMED, unsafe, entry 2. -/
def defaultFixv : List Byte := [0x01, 0x00, 0x12, 0x16]

/-- The default instance of CTRL_DATA (00_scope R6, D3): PRESUMED, unsafe, entry 2. -/
def defaultCtrlData : Byte := 0x40

/-- `OPC(tag)`. A table too short for the tag belongs to no legal configuration (entry 18). -/
def opcOf (opc : List Byte) (t : Tag) : Byte := opc.getD t.code.toNat 0

/-- `FIXV(tag)`. -/
def fixvOf (fixv : List Byte) (t : Tag) : Byte := fixv.getD t.fixvIndex 0

/-! ### Decoding -/

/-- Why no instruction is read. -/
inductive Reject where
  /-- `req_op` 6 or 7 (R91): the step takes Fault(BAD_OP). -/
  | badOp
  /-- A tag code 25..31 at the encoder port (R91): the step drives `enc_len` = 0. -/
  | reservedTag
  /-- A byte sequence that is no command frame: a length outside 2..4, a byte 0 that is no command
  control byte, or an opcode and length of no tag (R80, R88). -/
  | notAFrame
deriving DecidableEq, Repr

/-- The command instruction of a tag with its parameter bytes, of which a class takes what R87 says. -/
def instrOfTag (t : Tag) (p0 p1 : Byte) : Instr :=
  match t with
  | .columnAddress => .columnAddress p0 p1
  | .rowAddress => .rowAddress p0 p1
  | .contrast => .contrast p0
  | .remap => .remap p0
  | .startLine => .startLine p0
  | .displayOffset => .displayOffset p0
  | .normalDisplay => .normalDisplay
  | .allOn => .allOn
  | .allOff => .allOff
  | .inverseDisplay => .inverseDisplay
  | .muxRatio => .muxRatio p0
  | .internalVdd => .internalVdd
  | .externalVdd => .externalVdd
  | .displayOff => .displayOff
  | .displayOn => .displayOn
  | .phaseLength => .phaseLength p0
  | .clockOsc => .clockOsc p0
  | .gpio => .gpio p0
  | .secondPrecharge => .secondPrecharge p0
  | .linearLut => .linearLut
  | .prechargeVoltage => .prechargeVoltage p0
  | .vcomh => .vcomh p0
  | .functionSelectB => .functionSelectB p0
  | .unlock => .unlock
  | .lock => .lock

/-- The encoder port's input read as a command (R85). -/
def decodeQuery (q : EncQuery) : Except Reject Instr :=
  match Tag.ofCode q.tag with
  | some t => .ok (instrOfTag t q.p0 q.p1)
  | none => .error .reservedTag

/-- The request port's input read as a request (R89). A SEND_CMD keeps its raw tag code: a reserved one
is the operation's own fault (42_bus R161). -/
def decodeRequest (r : Request) : Except Reject Instr :=
  match r.op.toNat with
  | 0 => .ok (.sendCmd r.tag r.p0 r.p1)
  | 1 => .ok (.sendData r.data)
  | 2 => .ok (.setPixel r.x r.y r.value)
  | 3 => .ok (.drawPixel r.sx r.sy r.value)
  | 4 => .ok .flush
  | 5 => .ok .init
  | _ => .error .badOp

/-- What stands at an input port. -/
inductive PortWord where
  | query (q : EncQuery)
  | request (r : Request)
deriving DecidableEq, Repr

/-- The decoder of the block's two instruction ports. -/
def decode : PortWord → Except Reject Instr
  | .query q => decodeQuery q
  | .request r => decodeRequest r

/-- A command control byte is one of the two values of `CTRL_CMD` (00_scope R6). -/
def isCommandControl (c : Byte) : Bool := c == 0x80 || c == 0x00

/-- Whether a frame of `n` bytes with opcode `op` and third byte `p` is a frame of tag `t` (R80 to R83,
R88): the fixed parameter byte tells two tags of one opcode apart (R86). -/
def Tag.matchesFrame (opc fixv : List Byte) (n : Nat) (op p : Byte) (t : Tag) : Bool :=
  t.arity.frameLen == n && opcOf opc t == op && (t.arity != .f || fixvOf fixv t == p)

/-- The command of the first tag whose frame it is. -/
def commandOfFrame (opc fixv : List Byte) (n : Nat) (c op p0 p1 : Byte) : Except Reject Instr :=
  if isCommandControl c then
    match Tag.all.find? (Tag.matchesFrame opc fixv n op p0) with
    | some t => .ok (instrOfTag t p0 p1)
    | none => .error .notAFrame
  else .error .notAFrame

/-- The command a frame on the bus stands for, total on any bytes (R80, R88). -/
def decodeFrame (opc fixv : List Byte) : List Byte → Except Reject Instr
  | [c, op] => commandOfFrame opc fixv 2 c op 0 0
  | [c, op, p0] => commandOfFrame opc fixv 3 c op p0 0
  | [c, op, p0, p1] => commandOfFrame opc fixv 4 c op p0 p1
  | _ => .error .notAFrame

/-! ### Encoding -/

/-- `Encode(tag, p0, p1)`, the command encoder (40_command_encoder R100), padding 0x00 (R84). -/
def encodeCommand (p : Params) (t : Tag) (p0 p1 : Byte) : EncOut :=
  match t.arity with
  | .n => ⟨p.rev.ctrlCmd, opcOf p.opc t, 0x00, 0x00, 2⟩
  | .v => ⟨p.rev.ctrlCmd, opcOf p.opc t, p0, 0x00, 3⟩
  | .f => ⟨p.rev.ctrlCmd, opcOf p.opc t, fixvOf p.fixv t, 0x00, 3⟩
  | .w => ⟨p.rev.ctrlCmd, opcOf p.opc t, p0, p1, 4⟩

/-- The data frame DF9: `[CTRL_DATA, d0..d7]` (R80). -/
def dataFrame (p : Params) (d : List Byte) : List Byte := p.ctrlData :: d

/-- The query of a tag at the encoder port. -/
def queryOf (t : Tag) (p0 p1 : Byte) : PortWord := .query ⟨t.code, p0, p1⟩

/-- The port fields of an instruction, unused fields 0 (R85, R89). -/
def encode : Instr → PortWord
  | .columnAddress a b => queryOf .columnAddress a b
  | .rowAddress a b => queryOf .rowAddress a b
  | .contrast v => queryOf .contrast v 0
  | .remap v => queryOf .remap v 0
  | .startLine v => queryOf .startLine v 0
  | .displayOffset v => queryOf .displayOffset v 0
  | .normalDisplay => queryOf .normalDisplay 0 0
  | .allOn => queryOf .allOn 0 0
  | .allOff => queryOf .allOff 0 0
  | .inverseDisplay => queryOf .inverseDisplay 0 0
  | .muxRatio v => queryOf .muxRatio v 0
  | .internalVdd => queryOf .internalVdd 0 0
  | .externalVdd => queryOf .externalVdd 0 0
  | .displayOff => queryOf .displayOff 0 0
  | .displayOn => queryOf .displayOn 0 0
  | .phaseLength v => queryOf .phaseLength v 0
  | .clockOsc v => queryOf .clockOsc v 0
  | .gpio v => queryOf .gpio v 0
  | .secondPrecharge v => queryOf .secondPrecharge v 0
  | .linearLut => queryOf .linearLut 0 0
  | .prechargeVoltage v => queryOf .prechargeVoltage v 0
  | .vcomh v => queryOf .vcomh v 0
  | .functionSelectB v => queryOf .functionSelectB v 0
  | .unlock => queryOf .unlock 0 0
  | .lock => queryOf .lock 0 0
  | .sendCmd tag p0 p1 => .request { op := 0, tag := tag, p0 := p0, p1 := p1 }
  | .sendData d => .request { op := 1, data := d }
  | .setPixel x y value => .request { op := 2, x := x, y := y, value := value }
  | .drawPixel sx sy value => .request { op := 3, sx := sx, sy := sy, value := value }
  | .flush => .request { op := 4 }
  | .init => .request { op := 5 }

/-- The bus frame of a command instruction; a request has none of its own. -/
def frameOf (p : Params) (i : Instr) : Option (List Byte) :=
  match encode i with
  | .query q => (Tag.ofCode q.tag).map fun t => (encodeCommand p t q.p0 q.p1).frame
  | .request _ => none

/-- A batch of drawing pairs is one DRAW_PIXEL request a pair, in iteration order (30_encoding R93,
41_pixel R146). -/
def drawBatch (pairs : List (BitVec 32 × BitVec 32 × Byte)) : List Request :=
  pairs.map fun p => { op := 3, sx := p.1, sy := p.2.1, value := p.2.2 }

/-! ### The opcode table's words

A table row of a command is its frame read as one number whose last byte is bits 7..0, so byte 0, the
control byte, is the highest (the table's own patterns and spec/98_reader.md; entry 14). A row of a
request is its `req_op`. -/

/-- The `n` bytes of a frame whose last byte is bits 7..0 of `w`, byte 0 first. -/
def frameBytes : Nat → Nat → List Byte
  | 0, _ => []
  | n + 1, w => BitVec.ofNat 8 (w >>> (8 * n)) :: frameBytes n w

/-- The command frame of exactly `n` bytes that a table word lays out, where it is one. -/
def commandOfWord (n w : Nat) : Option Instr :=
  if w < 2 ^ (8 * n) then (decodeFrame defaultOpc defaultFixv (frameBytes n w)).toOption else none

/-- The port fields a table word lays out: a request code, or a frame of 2, 3 or 4 bytes. -/
def portWordOf (nbits w : Nat) : Option PortWord :=
  let b := w % 2 ^ nbits
  if b < 8 then some (.request { op := BitVec.ofNat 3 b })
  else ((commandOfWord 2 b).or ((commandOfWord 3 b).or (commandOfWord 4 b))).map encode

/-- The instruction the decoder reads from a table word. -/
def decodeTableWord (nbits w : Nat) : Option Instr :=
  match portWordOf nbits w with
  | some p => (decode p).toOption
  | none => none

/-! ### Syntax (30_encoding R92) -/

/-- The mnemonic of R85. -/
def Tag.mnemonic : Tag → String
  | .columnAddress => "COLUMN_ADDRESS"
  | .rowAddress => "ROW_ADDRESS"
  | .contrast => "CONTRAST"
  | .remap => "REMAP"
  | .startLine => "START_LINE"
  | .displayOffset => "DISPLAY_OFFSET"
  | .normalDisplay => "NORMAL_DISPLAY"
  | .allOn => "ALL_ON"
  | .allOff => "ALL_OFF"
  | .inverseDisplay => "INVERSE_DISPLAY"
  | .muxRatio => "MUX_RATIO"
  | .internalVdd => "INTERNAL_VDD"
  | .externalVdd => "EXTERNAL_VDD"
  | .displayOff => "DISPLAY_OFF"
  | .displayOn => "DISPLAY_ON"
  | .phaseLength => "PHASE_LENGTH"
  | .clockOsc => "CLOCK_OSC"
  | .gpio => "GPIO"
  | .secondPrecharge => "SECOND_PRECHARGE"
  | .linearLut => "LINEAR_LUT"
  | .prechargeVoltage => "PRECHARGE_VOLTAGE"
  | .vcomh => "VCOMH"
  | .functionSelectB => "FUNCTION_SELECT_B"
  | .unlock => "UNLOCK"
  | .lock => "LOCK"

/-- A command as R92 writes it, numbers in decimal. -/
def renderCommand (t : Tag) (p0 p1 : Byte) : String :=
  match t.arity with
  | .n => t.mnemonic
  | .f => t.mnemonic
  | .v => t.mnemonic ++ "(" ++ toString p0.toNat ++ ")"
  | .w => t.mnemonic ++ "(" ++ toString p0.toNat ++ ", " ++ toString p1.toNat ++ ")"

/-- A request as R92 writes it; a SEND_CMD with a reserved tag code shows the code. -/
def renderRequest (r : Request) : String :=
  match r.op.toNat with
  | 0 =>
    match Tag.ofCode r.tag with
    | some t => "send_cmd " ++ renderCommand t r.p0 r.p1
    | none => "send_cmd " ++ toString r.tag.toNat
  | 1 => "send_data " ++ String.intercalate ", " (r.data.toList.map fun b => toString b.toNat)
  | 2 => "set_pixel " ++ String.intercalate ", " ([r.x, r.y, r.value].map fun b => toString b.toNat)
  | 3 => "draw_pixel " ++ toString r.sx.toInt ++ ", " ++ toString r.sy.toInt ++ ", " ++ toString r.value.toNat
  | 4 => "flush"
  | 5 => "init"
  | n => "req_op " ++ toString n

/-- An instruction as R92 writes it. -/
def render (i : Instr) : String :=
  match encode i with
  | .query q =>
    match Tag.ofCode q.tag with
    | some t => renderCommand t q.p0 q.p1
    | none => toString q.tag.toNat
  | .request r => renderRequest r

end Sys2Proof
end

