-- ==== Sys2Proof/Machine/State.lean ====
section
/-! DEFINITION. The block's state (10_state R20 to R37) and its ports as plain data, the reasons a step
can stop, and the state after reset. -/

namespace Sys2Proof.Machine

/-- What the block is doing (10_state R25). -/
inductive Phase where
  | idle | cmd | data | flCol | flRow | flChunk | init | fault
deriving DecidableEq, Repr

/-- `FAULT_CAUSE` (10_state R28, 60_exceptions R215). -/
inductive FaultCause where
  | flushGeometry | badOp | badTag
deriving DecidableEq, Repr

/-- A transport error: a value the block copies and never inspects (60_exceptions R210). The code only
tells two errors apart (entry 5). -/
structure TransportError where
  code : Nat
deriving DecidableEq, Repr

/-- `OK` or `ERR(e)`: a bus answer (R31), and a response to the host (R32). -/
inductive Result where
  | ok
  | err (e : TransportError)
deriving DecidableEq, Repr

/-- One call of the bus write capability: a target address and its bytes (00_scope R13, R14). -/
structure Transaction where
  addr : Byte
  bytes : List Byte
deriving DecidableEq, Repr

/-- A construction: its configuration, and the contents the framebuffer happens to have (R37, D12). -/
structure ResetEvent where
  config : BlockConfig
  contents : List Byte
deriving DecidableEq, Repr

/-- Framebuffer bytes by index, in the canonical form of `Memory.wf`. -/
abbrev Memory := List Host.Cell

/-- The block and its ports. -/
structure State where
  /-- `CFG_WIDTH` (R21). -/
  cfgWidth : Byte
  /-- `CFG_HEIGHT` (R21). -/
  cfgHeight : Byte
  /-- `CFG_ADDR` (R21). -/
  cfgAddr : Byte
  /-- The parameters of R6 with no register: fixed from a construction to the next (entry 1). -/
  params : Params
  /-- `WMAX` (R22). -/
  wmax : Byte
  /-- `HMAX` (R22). -/
  hmax : Byte
  /-- `HALFWIDTH` (R22). -/
  halfwidth : Byte
  /-- `FB` (20_memory R51). -/
  fb : Memory
  /-- `PHASE` (R25). -/
  phase : Phase
  /-- `Y`, the row of a flush (R24). -/
  y : Byte
  /-- `X`, the byte-column of a flush (R24). -/
  x : Byte
  /-- `STEP`, the step of the init script (R24). -/
  initStep : BitVec 5
  /-- `LAST_ERR.valid` (R26). -/
  lastErrValid : Bool
  /-- `LAST_ERR.err` (R26). -/
  lastErr : TransportError
  /-- `FAULTED` (R28). -/
  faulted : Bool
  /-- `FAULT_CAUSE` (R28). -/
  faultCause : FaultCause
  /-- `REQ`, the request latch (R29). -/
  req : Option Request
  /-- `TXBUF[0..8]` (R29). -/
  txbuf : List Byte
  /-- `TXLEN` (R29). -/
  txlen : BitVec 4
  /-- The requests the host presents; the first one stands at the port, `req_valid` = 1 when there is
  one (R30, R34, entry 6). -/
  hostReqs : List Request
  /-- The bus's answers not yet taken, a free draw of the environment (R31, D21, entry 4). -/
  busIn : List Result
  /-- The input of the stand-alone encoder port (R35, entry 7). -/
  encPort : Option EncQuery
  /-- `enc_frame` and `enc_len` as last driven (R35). -/
  encOut : EncOut
  /-- A construction event of the outside world (70_reset R240, entry 11). -/
  resetPort : Option ResetEvent
  /-- The transactions emitted, oldest first (00_scope R14). -/
  busLog : List Transaction
  /-- The responses given, oldest first (R14, R32). -/
  respLog : List Result
deriving DecidableEq, Repr

/-- Why the machine stops with a fault. The block's own three faults (60_exceptions R215) are no such
stop: raising one is a next state in PHASE FAULT. -/
inductive Fault where
  /-- A framebuffer access at an index at or above FBLEN, which the spec says cannot happen (00_scope R11).
  Raised by the pixel writes and the chunk reads, in states no run reaches. Safe. -/
  | fbIndexOutOfRange
deriving DecidableEq, Repr

/-- Why a step is refused. All but the first are the configuration refusals of 60_exceptions R214, raised
by a construction event, where no block is built. Safe. -/
inductive Refusal where
  /-- An instruction with no meaning yet; raised by exec's arms only. Safe. -/
  | notModelled (mnemonic : String)
  /-- WIDTH odd, 0 or above 128. -/
  | illegalWidth
  /-- HEIGHT 0 or above 128. -/
  | illegalHeight
  /-- CTRL_CMD neither 0x80 nor 0x00. -/
  | illegalCtrlCmd
  /-- CTRL_DATA equal to CTRL_CMD. -/
  | illegalCtrlData
  /-- OPC not one byte for each of the 25 tags. -/
  | opcNotTotal
  /-- FIXV not one byte for each of the 4 fixed-value tags. -/
  | fixvNotTotal
deriving DecidableEq, Repr

/-- The parameters of the reset instance: the spec's default instance where it gives one (PRESUMED,
unsafe, entry 2), an opaque constant where it gives none (entry 1). -/
def resetParams : Params where
  rev := Config.revision
  ctrlData := defaultCtrlData
  opc := defaultOpc
  fixv := defaultFixv
  initContrast := Config.initContrast
  initRemap := Config.initRemap
  initStartLine := Config.initStartLine
  initOffset := Config.initOffset
  initClock := Config.initClock
  initPrecharge2 := Config.initPrecharge2
  initFuncB := Config.initFuncB
  windowErrPolicy := Config.windowErrPolicy

/-- The machine right after reset (10_state R37, 70_reset R240): the block built with every default of
00_scope R6. Nothing is listed in FB (DESIGN CHOICE, unsafe, entry 3); the values the spec leaves
meaningless are entry 13's, and no input stands at a port (entries 4, 6, 7, 11). -/
def State.reset : State where
  cfgWidth := 128
  cfgHeight := 128
  cfgAddr := 0x3C
  params := resetParams
  wmax := 127
  hmax := 127
  halfwidth := 63
  fb := []
  phase := .idle
  y := 0
  x := 0
  initStep := 0
  lastErrValid := false
  lastErr := ⟨0⟩
  faulted := false
  faultCause := .flushGeometry
  req := none
  txbuf := [0, 0, 0, 0, 0, 0, 0, 0, 0]
  txlen := 0
  hostReqs := []
  busIn := []
  encPort := none
  encOut := ⟨0, 0, 0, 0, 0⟩
  resetPort := none
  busLog := []
  respLog := []

end Sys2Proof.Machine
end

