-- ==== Sys2Proof/Machine/Ops.lean ====
section
/-! DEFINITION. The named operations over the framebuffer, the staging buffers and the ports, raising a
fault, and construction, which is the only way out of one. -/

namespace Sys2Proof.Machine

/-! ### Geometry (00_scope R7) -/

/-- `STRIDE = HALFWIDTH + 1`, 8 bits. -/
def State.stride (s : State) : Byte := s.halfwidth + 1

/-- `FBLEN = STRIDE * HEIGHT`. -/
def State.fbLen (s : State) : Nat := s.stride.toNat * s.cfgHeight.toNat

/-- `CPR = ceil(STRIDE / 8)`. -/
def State.chunksPerRow (s : State) : Nat := (s.stride.toNat + 7) / 8

/-- `NDATA = CPR * HEIGHT`. -/
def State.nData (s : State) : Nat := s.chunksPerRow * s.cfgHeight.toNat

/-- `buffer_size(w, h)` (41_pixel R148). -/
def bufferSize (w h : Nat) : Nat := w / 2 * h

/-! ### Framebuffer bytes (20_memory R53) -/

/-- What a framebuffer byte that nothing has written reads as: DESIGN CHOICE, unsafe, entry 3. -/
def Memory.unlisted : Byte := 0x00

/-- One byte of the list. -/
def Memory.read : Memory → Nat → Byte
  | [], _ => Memory.unlisted
  | (b, w) :: rest, a => if a = b then w else Memory.read rest a

/-- One byte stored, in canonical form. -/
def Memory.write : Memory → Nat → Byte → Memory
  | [], a, v => if v = Memory.unlisted then [] else [(a, v)]
  | (b, w) :: rest, a, v =>
    if a < b then if v = Memory.unlisted then (b, w) :: rest else (a, v) :: (b, w) :: rest
    else if a = b then if v = Memory.unlisted then rest else (a, v) :: rest
    else (b, w) :: Memory.write rest a v

/-- The canonical form from a lower bound on: addresses strictly rising, nothing listed that an unlisted
address reads as. -/
def Memory.wfFrom : Nat → Memory → Bool
  | _, [] => true
  | lo, (a, v) :: rest => decide (lo ≤ a) && decide (v ≠ Memory.unlisted) && Memory.wfFrom (a + 1) rest

/-- The canonical form. -/
def Memory.wf (m : Memory) : Bool := Memory.wfFrom 0 m

/-- Every listed address lies below `n`. -/
def Memory.below (n : Nat) (m : Memory) : Bool := m.all fun c => decide (c.1 < n)

/-- The cells of consecutive bytes from index `i` on. -/
def Memory.ofBytes : Nat → List Byte → Memory
  | _, [] => []
  | i, b :: bs => if b = Memory.unlisted then Memory.ofBytes (i + 1) bs else (i, b) :: Memory.ofBytes (i + 1) bs

/-- `MemRead(i, 1)`; an index at or above FBLEN has no byte (00_scope R11). -/
def State.memRead (s : State) (i : Index) : Option Byte :=
  if i.toNat < s.fbLen then some (s.fb.read i.toNat) else none

/-- `MemWrite(i, 1, v)`. -/
def State.memWrite (s : State) (i : Index) (v : Byte) : Option State :=
  if i.toNat < s.fbLen then some { s with fb := s.fb.write i.toNat v } else none

/-- `MemRead(i + k, 1)` for `k` = 0..n-1. -/
def State.memReadMany (s : State) : Nat → Index → Option (List Byte)
  | 0, _ => some []
  | n + 1, i =>
    match s.memRead i, s.memReadMany n (i + 1) with
    | some b, some bs => some (b :: bs)
    | _, _ => none

/-! ### The bus port (10_state R29, R31) -/

/-- Puts a transaction on the bus in the given phase: it stages the bytes and emits the transaction with
the target address (42_bus R160). Staging bytes beyond the length keep what they held (entry 13). -/
def startTransaction (ph : Phase) (bytes : List Byte) (s : State) : State :=
  { s with
    phase := ph
    txbuf := bytes ++ s.txbuf.drop bytes.length
    txlen := BitVec.ofNat 4 bytes.length
    busLog := s.busLog ++ [⟨s.cfgAddr, bytes⟩] }

/-- Puts a command frame on the bus (40_command_encoder R101). -/
def startCommand (ph : Phase) (t : Tag) (p0 p1 : Byte) (s : State) : State :=
  startTransaction ph (encodeCommand s.params t p0 p1).frame s

/-- A transaction is on the bus in these phases (R25). -/
def Phase.onBus : Phase → Bool
  | .idle => false
  | .cmd => true
  | .data => true
  | .flCol => true
  | .flRow => true
  | .flChunk => true
  | .init => true
  | .fault => false

/-- `bus_valid`. -/
def State.busValid (s : State) : Bool := s.phase.onBus

/-- `bus_addr`. -/
def State.busAddr (s : State) : Byte := s.cfgAddr

/-- `bus_len`. -/
def State.busLen (s : State) : BitVec 4 := s.txlen

/-- `bus_bytes`: positions at or beyond TXLEN are not driven. -/
def State.busBytes (s : State) : List Byte := s.txbuf.take s.txlen.toNat

/-! ### The response port and the combinational outputs -/

/-- `respond(r)`: completes the request and returns to IDLE (00_scope R11, 10_state R32). -/
def respond (r : Result) (s : State) : State :=
  { s with phase := .idle, req := none, respLog := s.respLog ++ [r] }

/-- The SIZE output `(size_w, size_h)`, in every phase (10_state R33, 41_pixel R147). -/
def State.size (s : State) : Byte × Byte := (s.cfgWidth, s.cfgHeight)

/-- Drives the stand-alone encoder port's output (10_state R35); nothing else changes. -/
def driveEncoder (out : EncOut) (s : State) : State := { s with encOut := out }

/-! ### Faults (60_exceptions R215) and construction (70_reset R240) -/

/-- `raise Fault(name)`: sticky, no response, no transaction; FB, LAST_ERR and REQ stay (entries 9, 15). -/
def raiseFault (cause : FaultCause) (s : State) : State :=
  { s with phase := .fault, faulted := true, faultCause := cause }

/-- The first violation of 00_scope R6 (60_exceptions R214). -/
def checkConfig (c : BlockConfig) : Option Refusal :=
  if c.width % 2 ≠ 0 ∨ c.width < 2 ∨ 128 < c.width then some .illegalWidth
  else if c.height < 1 ∨ 128 < c.height then some .illegalHeight
  else if isCommandControl c.params.rev.ctrlCmd = false then some .illegalCtrlCmd
  else if c.params.ctrlData = c.params.rev.ctrlCmd then some .illegalCtrlData
  else if c.params.opc.length ≠ 25 then some .opcNotTotal
  else if c.params.fixv.length ≠ 4 then some .fixvNotTotal
  else none

/-- The block built with a legal configuration over the framebuffer contents it happens to have: the
order of R240. Bytes beyond FBLEN do not exist; missing ones are unlisted. -/
def build (c : BlockConfig) (contents : List Byte) : State :=
  let width := BitVec.ofNat 8 c.width
  let height := BitVec.ofNat 8 c.height
  { State.reset with
    cfgWidth := width
    cfgHeight := height
    cfgAddr := c.targetAddr
    params := c.params
    wmax := width - 1
    hmax := height - 1
    halfwidth := (width - 1) / 2
    fb := Memory.ofBytes 0 (contents.take (bufferSize c.width c.height)) }

/-- Construction: a block, or a refusal by name (60_exceptions R214). -/
def construct (c : BlockConfig) (contents : List Byte) : Except Refusal State :=
  match checkConfig c with
  | some r => .error r
  | none => .ok (build c contents)

/-- A construction event: the new block, with what belongs to the outside world left as it stands (the
host's and the bus's inputs, the encoder port, the record of both observables; entry 11). -/
def takeReset (ev : ResetEvent) (s : State) : Host.Outcome State Fault Refusal :=
  match construct ev.config ev.contents with
  | .error r => .refused r
  | .ok b =>
    .next { b with
      hostReqs := s.hostReqs
      busIn := s.busIn
      encPort := s.encPort
      encOut := s.encOut
      resetPort := none
      busLog := s.busLog
      respLog := s.respLog }

end Sys2Proof.Machine
end

