-- ==== Sys2Proof/Machine/Operands.lean ====
section
/-! DEFINITION. The operand forms of the requests: pixel coordinates and gray values (20_memory R52,
30_encoding R90, 41_pixel R140 to R149). -/

namespace Sys2Proof.Machine

/-- `PixIndex(x, y) = zext_16(x div 2) + zext_16(y) * zext_16(STRIDE)`, 16 bits (R52). -/
def pixIndex (s : State) (x y : Byte) : Index :=
  (x >>> 1).setWidth 16 + y.setWidth 16 * s.stride.setWidth 16

/-- `PixNibble(x)`: an even x is the high nibble (R52). -/
def pixHigh (x : Byte) : Bool := !x.getLsbD 0

/-- `g = value[3:0]`, zero-extended; bits [7:4] are ignored (30_encoding R90). -/
def gray (value : Byte) : Byte := value &&& 0x0F

/-- The byte with one nibble replaced by the gray value (R142, R143). -/
def setNibble (high : Bool) (value b : Byte) : Byte :=
  if high then (b &&& 0x0F) ||| (gray value <<< 4) else (b &&& 0xF0) ||| gray value

/-- The nibble of a byte, as a 4-bit value (R54). -/
def nibble (high : Bool) (b : Byte) : BitVec 4 :=
  if high then b.extractLsb' 4 4 else b.extractLsb' 0 4

/-- The bounds check of SET_PIXEL (20_memory R61): on the full unsigned byte. -/
def inRange (s : State) (x y : Byte) : Bool := decide (x ≤ s.wmax) && decide (y ≤ s.hmax)

/-- The adapter's check (41_pixel R145): on the full signed 32 bits, before any narrowing. -/
def drawInRange (s : State) (sx sy : BitVec 32) : Bool :=
  decide (0 ≤ sx.toInt) && decide (0 ≤ sy.toInt) &&
    decide (sx.toInt < s.cfgWidth.toNat) && decide (sy.toInt < s.cfgHeight.toNat)

/-- The two pixels a framebuffer index holds, high nibble first (20_memory R60). -/
def pixelsOfIndex (s : State) (i : Nat) : (Nat × Nat) × (Nat × Nat) :=
  ((2 * (i % s.stride.toNat), i / s.stride.toNat), (2 * (i % s.stride.toNat) + 1, i / s.stride.toNat))

/-- The start index of the current flush chunk (42_bus R167). -/
def chunkStart (s : State) : Index := s.x.setWidth 16 + s.y.setWidth 16 * s.stride.setWidth 16

end Sys2Proof.Machine
end

