-- ==== Sys2Proof/Machine/Flags.lean ====
section
/-! DEFINITION. The block's status: `req_ready`, the flush's error register and the flush's result
(10_state R26, R27). The block has no condition codes. -/

namespace Sys2Proof.Machine

/-- `req_ready` is 1 exactly when PHASE = IDLE (R27). -/
def State.reqReady (s : State) : Bool := s.phase == .idle

/-- A request is taken in IDLE only; presented earlier it waits, with none of its effect (10_state R34,
entry 10). -/
def whenReady (s : State) (taken : Host.Outcome State Fault Refusal) : Host.Outcome State Fault Refusal :=
  if s.reqReady then taken else .next s

/-- `LAST_ERR.valid <- 0` (42_bus R164). -/
def clearErr (s : State) : State := { s with lastErrValid := false }

/-- A failed transaction is recorded, a successful one clears nothing (42_bus R169). -/
def recordErr (r : Result) (s : State) : State :=
  match r with
  | .ok => s
  | .err e => { s with lastErrValid := true, lastErr := e }

/-- The response of a finished flush (42_bus R170). -/
def flushResult (s : State) : Result := if s.lastErrValid then .err s.lastErr else .ok

/-- The flush precondition `STRIDE mod 8 = 0` (42_bus R163). -/
def flushable (s : State) : Bool := s.stride.toNat % 8 == 0

end Sys2Proof.Machine
end

