-- ==== Sys2Proof/Machine/BusRequests.lean ====
section
/-! DEFINITION. SEND_CMD and SEND_DATA (42_bus R160 to R162): what accepting the request does, and what
the bus's answer does. -/

namespace Sys2Proof.Machine

/-- SEND_CMD (R161): a reserved tag raises Fault(BAD_TAG) before any transaction; a tag's frame goes on
the bus in PHASE CMD. -/
def execSendCmd (tag : BitVec 5) (p0 p1 : Byte) (s : State) : Host.Outcome State Fault Refusal :=
  whenReady s <|
    match Tag.ofCode tag with
    | none => .next (raiseFault .badTag s)
    | some t => .next (startCommand .cmd t p0 p1 s)

/-- SEND_DATA (R162): the eight bytes behind the data control byte go on the bus in PHASE DATA. -/
def execSendData (d : Data8) (s : State) : Host.Outcome State Fault Refusal :=
  whenReady s (.next (startTransaction .data (dataFrame s.params d.toList) s))

/-- The answer of a SEND_CMD or SEND_DATA transaction is the response, verbatim (R161, R162). -/
def sendAnswered (r : Result) (s : State) : Host.Outcome State Fault Refusal :=
  .next (respond r s)

end Sys2Proof.Machine
end

