-- ==== Sys2Proof/Machine/Commands.lean ====
section
/-! DEFINITION. The meanings of the 25 command tags (40_command_encoder R100 to R126): each is
`Encode(tag, p0, p1)` at the stand-alone encoder port, in any phase; no flag, no state of R20, no
exception (10_state R35, entry 7). SEND_CMD, FLUSH and INIT send the same function's frames. -/

namespace Sys2Proof.Machine

/-- `Encode(tag, p0, p1)` driven on the encoder port. -/
def runEncoder (t : Tag) (p0 p1 : Byte) (s : State) : Host.Outcome State Fault Refusal :=
  .next (driveEncoder (encodeCommand s.params t p0 p1) s)

/-- COLUMN_ADDRESS, class W, CF4 (R102); start > end is passed verbatim. -/
def execColumnAddress (start stop : Byte) (s : State) : Host.Outcome State Fault Refusal :=
  runEncoder .columnAddress start stop s

/-- ROW_ADDRESS, class W, CF4 (R103); start > end is passed verbatim. -/
def execRowAddress (start stop : Byte) (s : State) : Host.Outcome State Fault Refusal :=
  runEncoder .rowAddress start stop s

/-- CONTRAST, class V, CF3 (R104). -/
def execContrast (v : Byte) (s : State) : Host.Outcome State Fault Refusal :=
  runEncoder .contrast v 0 s

/-- REMAP, class V, CF3 (R105). -/
def execRemap (v : Byte) (s : State) : Host.Outcome State Fault Refusal :=
  runEncoder .remap v 0 s

/-- START_LINE, class V, CF3 (R106). -/
def execStartLine (v : Byte) (s : State) : Host.Outcome State Fault Refusal :=
  runEncoder .startLine v 0 s

/-- DISPLAY_OFFSET, class V, CF3 (R107). -/
def execDisplayOffset (v : Byte) (s : State) : Host.Outcome State Fault Refusal :=
  runEncoder .displayOffset v 0 s

/-- NORMAL_DISPLAY, class N, CF2 (R108). -/
def execNormalDisplay (s : State) : Host.Outcome State Fault Refusal :=
  runEncoder .normalDisplay 0 0 s

/-- ALL_ON, class N, CF2 (R109). -/
def execAllOn (s : State) : Host.Outcome State Fault Refusal :=
  runEncoder .allOn 0 0 s

/-- ALL_OFF, class N, CF2 (R110). -/
def execAllOff (s : State) : Host.Outcome State Fault Refusal :=
  runEncoder .allOff 0 0 s

/-- INVERSE_DISPLAY, class N, CF2 (R111). -/
def execInverseDisplay (s : State) : Host.Outcome State Fault Refusal :=
  runEncoder .inverseDisplay 0 0 s

/-- MUX_RATIO, class V, CF3 (R112); no count is converted, the byte goes verbatim. -/
def execMuxRatio (v : Byte) (s : State) : Host.Outcome State Fault Refusal :=
  runEncoder .muxRatio v 0 s

/-- INTERNAL_VDD, class F, CF3 (R113); the byte is FIXV(INTERNAL_VDD). -/
def execInternalVdd (s : State) : Host.Outcome State Fault Refusal :=
  runEncoder .internalVdd 0 0 s

/-- EXTERNAL_VDD, class F, CF3 (R114); the byte is FIXV(EXTERNAL_VDD). -/
def execExternalVdd (s : State) : Host.Outcome State Fault Refusal :=
  runEncoder .externalVdd 0 0 s

/-- DISPLAY_OFF, class N, CF2 (R115). -/
def execDisplayOff (s : State) : Host.Outcome State Fault Refusal :=
  runEncoder .displayOff 0 0 s

/-- DISPLAY_ON, class N, CF2 (R116). -/
def execDisplayOn (s : State) : Host.Outcome State Fault Refusal :=
  runEncoder .displayOn 0 0 s

/-- PHASE_LENGTH, class V, CF3 (R117). -/
def execPhaseLength (v : Byte) (s : State) : Host.Outcome State Fault Refusal :=
  runEncoder .phaseLength v 0 s

/-- CLOCK_OSC, class V, CF3 (R118). -/
def execClockOsc (v : Byte) (s : State) : Host.Outcome State Fault Refusal :=
  runEncoder .clockOsc v 0 s

/-- GPIO, class V, CF3 (R119). -/
def execGpio (v : Byte) (s : State) : Host.Outcome State Fault Refusal :=
  runEncoder .gpio v 0 s

/-- SECOND_PRECHARGE, class V, CF3 (R120). -/
def execSecondPrecharge (v : Byte) (s : State) : Host.Outcome State Fault Refusal :=
  runEncoder .secondPrecharge v 0 s

/-- LINEAR_LUT, class N, CF2 (R121). -/
def execLinearLut (s : State) : Host.Outcome State Fault Refusal :=
  runEncoder .linearLut 0 0 s

/-- PRECHARGE_VOLTAGE, class V, CF3 (R122). -/
def execPrechargeVoltage (v : Byte) (s : State) : Host.Outcome State Fault Refusal :=
  runEncoder .prechargeVoltage v 0 s

/-- VCOMH, class V, CF3 (R123). -/
def execVcomh (v : Byte) (s : State) : Host.Outcome State Fault Refusal :=
  runEncoder .vcomh v 0 s

/-- FUNCTION_SELECT_B, class V, CF3 (R124). -/
def execFunctionSelectB (v : Byte) (s : State) : Host.Outcome State Fault Refusal :=
  runEncoder .functionSelectB v 0 s

/-- UNLOCK, class F, CF3 (R125); the byte is FIXV(UNLOCK). -/
def execUnlock (s : State) : Host.Outcome State Fault Refusal :=
  runEncoder .unlock 0 0 s

/-- LOCK, class F, CF3 (R126); the byte is FIXV(LOCK), and no lock state is kept. -/
def execLock (s : State) : Host.Outcome State Fault Refusal :=
  runEncoder .lock 0 0 s

end Sys2Proof.Machine
end

