-- ==== Sys2Proof/Machine/Flush.lean ====
section
/-! DEFINITION. FLUSH (42_bus R163 to R173): accepting it, and what each answer of its transactions
does. -/

namespace Sys2Proof.Machine

/-- FLUSH accepted (R163, R164): the geometry fault, or LAST_ERR cleared and the full column window on the
bus. -/
def execFlush (s : State) : Host.Outcome State Fault Refusal :=
  whenReady s <|
    if flushable s then .next (startCommand .flCol .columnAddress 0 s.halfwidth (clearErr s))
    else .next (raiseFault .flushGeometry s)

/-- The policy of R166 for a window transaction's answer: the flush ends with this response, or goes on
from this state. -/
def windowAnswer (r : Result) (s : State) : Sum Result State :=
  match r with
  | .ok => .inr s
  | .err e =>
    match s.params.windowErrPolicy with
    | .abort => .inl (.err e)
    | .record => .inr (recordErr (.err e) s)
    | .discard => .inr s

/-- Puts the chunk at (X, Y) on the bus: its eight bytes are read in this step (R167, R168). -/
def startChunk (s : State) : Host.Outcome State Fault Refusal :=
  match s.memReadMany 8 (chunkStart s) with
  | none => .fault .fbIndexOutOfRange
  | some bytes => .next (startTransaction .flChunk (dataFrame s.params bytes) s)

/-- The column window is answered (R165, R166). -/
def flushColAnswered (r : Result) (s : State) : Host.Outcome State Fault Refusal :=
  match windowAnswer r s with
  | .inl resp => .next (respond resp s)
  | .inr t => .next (startCommand .flRow .rowAddress 0 s.hmax t)

/-- The row window is answered (R166, R167): the chunk loop starts at (0, 0). -/
def flushRowAnswered (r : Result) (s : State) : Host.Outcome State Fault Refusal :=
  match windowAnswer r s with
  | .inl resp => .next (respond resp s)
  | .inr t => startChunk { t with y := 0, x := 0 }

/-- The next chunk's position (R167 item 3). -/
def advanceChunk (s : State) : State :=
  if s.halfwidth < s.x + 8 then { s with x := 0, y := s.y + 1 } else { s with x := s.x + 8 }

/-- The next chunk goes out, or, past the last row, the flush responds (R167, R170). -/
def nextChunkOrDone (s : State) : Host.Outcome State Fault Refusal :=
  if s.hmax < s.y then .next (respond (flushResult s) { s with y := 0 }) else startChunk s

/-- A chunk is answered (R169): an error is recorded, and the loop goes on either way. -/
def flushChunkAnswered (r : Result) (s : State) : Host.Outcome State Fault Refusal :=
  nextChunkOrDone (advanceChunk (recordErr r s))

end Sys2Proof.Machine
end

