-- ==== Sys2Proof/Machine/Init.lean ====
section
/-! DEFINITION. The init script and INIT (43_init R190 to R196). -/

namespace Sys2Proof.Machine

/-- The script (R190): tag and parameter bytes of the 19 steps. -/
def initScript (p : Params) (halfwidth hmax : Byte) : List (Tag × Byte × Byte) :=
  [(.unlock, 0, 0),
   (.displayOff, 0, 0),
   (.columnAddress, 0, halfwidth),
   (.rowAddress, 0, hmax),
   (.contrast, p.initContrast, 0),
   (.remap, p.initRemap, 0),
   (.startLine, p.initStartLine, 0),
   (.displayOffset, p.initOffset, 0),
   (.normalDisplay, 0, 0),
   (.muxRatio, p.rev.initMux, 0),
   (.phaseLength, p.rev.initPhase, 0),
   (.linearLut, 0, 0),
   (.clockOsc, p.initClock, 0),
   (.internalVdd, 0, 0),
   (.secondPrecharge, p.initPrecharge2, 0),
   (.vcomh, p.rev.initVcomh, 0),
   (.prechargeVoltage, p.rev.initPrechargeV, 0),
   (.functionSelectB, p.initFuncB, 0),
   (.displayOn, 0, 0)]

/-- Puts the frame of `SCRIPT[STEP]` on the bus, or, past the last step, ends the script: STEP back to 0
and the response OK, whatever the answers were (R192, R195). -/
def initNext (s : State) : State :=
  match (initScript s.params s.halfwidth s.hmax)[s.initStep.toNat]? with
  | some (t, p0, p1) => startCommand .init t p0 p1 s
  | none => respond .ok { s with initStep := 0 }

/-- INIT accepted (R195). -/
def execInit (s : State) : Host.Outcome State Fault Refusal :=
  whenReady s (.next (initNext { s with initStep := 0 }))

/-- An init step is answered: the answer is discarded (R191). -/
def initAnswered (_r : Result) (s : State) : Host.Outcome State Fault Refusal :=
  .next (initNext { s with initStep := s.initStep + 1 })

end Sys2Proof.Machine
end

