-- ==== Sys2Proof/Machine/Pixels.lean ====
section
/-! DEFINITION. SET_PIXEL and DRAW_PIXEL (41_pixel R140 to R146), each complete in the step that accepts
it. -/

namespace Sys2Proof.Machine

/-- The body of SET_PIXEL (R140): out of range it writes nothing, in range one nibble of one byte. Both
respond OK. -/
def writePixel (x y value : Byte) (s : State) : Host.Outcome State Fault Refusal :=
  if inRange s x y then
    match s.memRead (pixIndex s x y) with
    | none => .fault .fbIndexOutOfRange
    | some b =>
      match s.memWrite (pixIndex s x y) (setNibble (pixHigh x) value b) with
      | none => .fault .fbIndexOutOfRange
      | some t => .next (respond .ok t)
  else .next (respond .ok s)

/-- SET_PIXEL (R140, R141). -/
def execSetPixel (x y value : Byte) (s : State) : Host.Outcome State Fault Refusal :=
  whenReady s (writePixel x y value s)

/-- DRAW_PIXEL (R145): a coordinate outside the configured extent discards the pair, with response OK. -/
def execDrawPixel (sx sy : BitVec 32) (value : Byte) (s : State) : Host.Outcome State Fault Refusal :=
  whenReady s <|
    if drawInRange s sx sy then writePixel (sx.setWidth 8) (sy.setWidth 8) value s
    else .next (respond .ok s)

end Sys2Proof.Machine
end

