-- ==== Sys2Proof/Machine/Dispatch.lean ====
section
/-! DEFINITION. One arm per constructor of Instr, each one call of its meaning. -/

namespace Sys2Proof.Machine

/-- What an instruction does in a state. -/
def exec (i : Instr) (s : State) : Host.Outcome State Fault Refusal :=
  match i with
  | .columnAddress start stop => Sys2Proof.Machine.execColumnAddress start stop s
  | .rowAddress start stop => Sys2Proof.Machine.execRowAddress start stop s
  | .contrast v => Sys2Proof.Machine.execContrast v s
  | .remap v => Sys2Proof.Machine.execRemap v s
  | .startLine v => Sys2Proof.Machine.execStartLine v s
  | .displayOffset v => Sys2Proof.Machine.execDisplayOffset v s
  | .normalDisplay => Sys2Proof.Machine.execNormalDisplay s
  | .allOn => Sys2Proof.Machine.execAllOn s
  | .allOff => Sys2Proof.Machine.execAllOff s
  | .inverseDisplay => Sys2Proof.Machine.execInverseDisplay s
  | .muxRatio v => Sys2Proof.Machine.execMuxRatio v s
  | .internalVdd => Sys2Proof.Machine.execInternalVdd s
  | .externalVdd => Sys2Proof.Machine.execExternalVdd s
  | .displayOff => Sys2Proof.Machine.execDisplayOff s
  | .displayOn => Sys2Proof.Machine.execDisplayOn s
  | .phaseLength v => Sys2Proof.Machine.execPhaseLength v s
  | .clockOsc v => Sys2Proof.Machine.execClockOsc v s
  | .gpio v => Sys2Proof.Machine.execGpio v s
  | .secondPrecharge v => Sys2Proof.Machine.execSecondPrecharge v s
  | .linearLut => Sys2Proof.Machine.execLinearLut s
  | .prechargeVoltage v => Sys2Proof.Machine.execPrechargeVoltage v s
  | .vcomh v => Sys2Proof.Machine.execVcomh v s
  | .functionSelectB v => Sys2Proof.Machine.execFunctionSelectB v s
  | .unlock => Sys2Proof.Machine.execUnlock s
  | .lock => Sys2Proof.Machine.execLock s
  | .sendCmd tag p0 p1 => Sys2Proof.Machine.execSendCmd tag p0 p1 s
  | .sendData d => Sys2Proof.Machine.execSendData d s
  | .setPixel x y value => Sys2Proof.Machine.execSetPixel x y value s
  | .drawPixel sx sy value => Sys2Proof.Machine.execDrawPixel sx sy value s
  | .flush => Sys2Proof.Machine.execFlush s
  | .init => Sys2Proof.Machine.execInit s

end Sys2Proof.Machine
end

