-- ==== Sys2Proof/Machine/Sequencer.lean ====
section
/-! DEFINITION. What a step reads at the ports, and the sequencer's own steps between a request's
acceptance and its response (10_state R24, R25). -/

namespace Sys2Proof.Machine

/-- The port word the next step takes: the encoder port in any phase (10_state R35), the request port when
`req_ready` = 1 (R27, R34). -/
def fetch (s : State) : Option PortWord :=
  match s.encPort with
  | some q => some (.query q)
  | none => if s.reqReady then s.hostReqs.head?.map .request else none

/-- The port word is taken: the encoder's input is consumed, or the request leaves the host and is
latched in REQ (10_state R29). -/
def accept (w : PortWord) (s : State) : State :=
  match w with
  | .query _ => { s with encPort := none }
  | .request r => { s with hostReqs := s.hostReqs.tail, req := some r }

/-- A port word that is no instruction: Fault(BAD_OP) for a reserved request code (60_exceptions R215); a
reserved tag at the encoder port is not encoded, and the port gives `enc_len` = 0 (30_encoding R91,
entry 8). -/
def rejectWord (why : Reject) (s : State) : Host.Outcome State Fault Refusal :=
  match why with
  | .badOp => .next (raiseFault .badOp s)
  | .reservedTag => .next (driveEncoder ⟨0, 0, 0, 0, 0⟩ s)
  | .notAFrame => .next s

/-- The bus's answer to the transaction of the current phase (R25). -/
def answered (r : Result) (s : State) : Host.Outcome State Fault Refusal :=
  match s.phase with
  | .idle => .next s
  | .cmd => sendAnswered r s
  | .data => sendAnswered r s
  | .flCol => flushColAnswered r s
  | .flRow => flushRowAnswered r s
  | .flChunk => flushChunkAnswered r s
  | .init => initAnswered r s
  | .fault => .next s

/-- A step with nothing to take: the bus's next answer where a transaction is on the bus; without one the
block waits, and in IDLE and FAULT nothing moves (R31, 60_exceptions R215, R221). -/
def advance (s : State) : Host.Outcome State Fault Refusal :=
  if s.phase.onBus then
    match s.busIn with
    | [] => .next s
    | r :: rest => answered r { s with busIn := rest }
  else .next s

/-- Puts a port word where the next step takes it (entry 6). -/
def placeWord (w : PortWord) (s : State) : State :=
  match w with
  | .query q => { s with resetPort := none, encPort := some q }
  | .request r => { s with resetPort := none, encPort := none, phase := .idle, hostReqs := r :: s.hostReqs }

end Sys2Proof.Machine
end

