-- ==== Sys2Proof/Machine/Step.lean ====
section
/-! DEFINITION. One step of the block, and the placing of one instruction where the next step takes it. -/

namespace Sys2Proof.Machine

/-- One step: a construction event first (70_reset R240), then the instruction at a port, then the
sequencer (entry 16). -/
def step (s : State) : Host.Outcome State Fault Refusal :=
  match s.resetPort with
  | some ev => takeReset ev s
  | none =>
    match fetch s with
    | none => advance s
    | some w =>
      match decode w with
      | .ok i => exec i (accept w s)
      | .error e => rejectWord e (accept w s)

/-- `s` with the instruction of an opcode-table word at the port the next step reads (entries 6, 14). A
word that is no port's is placed nowhere. -/
def State.withFetchWord (s : State) (nbits w : Nat) : State :=
  match portWordOf nbits w with
  | some p => placeWord p s
  | none => s

end Sys2Proof.Machine
end

