-- ==== Sys2Proof/Safety.lean ====
section
/-! DEFINITION. The terms claims are made in: the invariant of the block, the legal transactions and phase
edges, the trace and the result of a whole flush and of the init script, and the end of a run. -/

namespace Sys2Proof.Machine

/-- The configuration is legal and the geometry registers are its (00_scope R6, R7, 10_state R22). -/
structure ConfigInv (s : State) : Prop where
  widthEven : s.cfgWidth.toNat % 2 = 0
  widthMin : 2 ≤ s.cfgWidth.toNat
  widthMax : s.cfgWidth.toNat ≤ 128
  heightMin : 1 ≤ s.cfgHeight.toNat
  heightMax : s.cfgHeight.toNat ≤ 128
  ctrlCmd : s.params.rev.ctrlCmd = 0x80 ∨ s.params.rev.ctrlCmd = 0x00
  ctrlData : s.params.ctrlData ≠ s.params.rev.ctrlCmd
  opcTotal : s.params.opc.length = 25
  fixvTotal : s.params.fixv.length = 4
  wmax : s.wmax.toNat = s.cfgWidth.toNat - 1
  hmax : s.hmax.toNat = s.cfgHeight.toNat - 1
  halfwidth : s.halfwidth.toNat = (s.cfgWidth.toNat - 1) / 2

/-- The framebuffer is in canonical form and lists no index at or above FBLEN (20_memory R51). -/
structure FbInv (s : State) : Prop where
  canonical : s.fb.wf = true
  inside : s.fb.below s.fbLen = true

/-- The three phases of a flush. -/
def Phase.inFlush (p : Phase) : Bool := p == .flCol || p == .flRow || p == .flChunk

/-- The sequencer's position is one R24 and R25 allow, with FAULTED and REQ as R28 and R29 say. -/
structure SeqInv (s : State) : Prop where
  countersRest : s.phase ≠ .flChunk → s.x = 0 ∧ s.y = 0
  chunkX : s.phase = .flChunk → s.x.toNat ≤ s.halfwidth.toNat ∧ s.x.toNat % 8 = 0
  chunkY : s.phase = .flChunk → s.y.toNat ≤ s.hmax.toNat
  flushLegal : s.phase.inFlush = true → flushable s = true
  stepRest : s.phase ≠ .init → s.initStep = 0
  stepRange : s.initStep.toNat < 19
  faultedPhase : s.faulted = true ↔ s.phase = .fault
  idleNoReq : s.phase = .idle → s.req = none
  busyReq : s.phase.onBus = true → s.req.isSome = true

/-- The staging buffer holds nine bytes, and the transaction on the bus is the last one emitted (10_state
R29, R31). -/
structure BusInv (s : State) : Prop where
  staged : s.txbuf.length = 9
  driven : s.phase.onBus = true → s.busLog.getLast? = some ⟨s.cfgAddr, s.busBytes⟩

/-- The invariant of the block. -/
structure BlockInv (s : State) : Prop where
  config : ConfigInv s
  fb : FbInv s
  seq : SeqInv s
  bus : BusInv s

/-- One of the four formats at the target address (30_encoding R80): the frame of a tag (CF2, CF3 or CF4 as
its class says, with its own opcode byte), or the data control byte and eight bytes (DF9). -/
def legalTransaction (s : State) (t : Transaction) : Prop :=
  t.addr = s.cfgAddr ∧
    ((∃ (tag : Tag) (p0 p1 : Byte), t.bytes = (encodeCommand s.params tag p0 p1).frame ∧
        t.bytes.length = tag.arity.frameLen ∧ t.bytes[0]? = some s.params.rev.ctrlCmd ∧
        t.bytes[1]? = some (opcOf s.params.opc tag)) ∨
      ∃ data : List Byte, data.length = 8 ∧ t.bytes = s.params.ctrlData :: data)

/-- The edges of 10_state R25's table; a phase with a transaction on the bus may also wait. -/
def phaseEdge : Phase → Phase → Bool
  | .idle, q => q == .idle || q == .cmd || q == .data || q == .flCol || q == .init || q == .fault
  | .cmd, q => q == .cmd || q == .idle
  | .data, q => q == .data || q == .idle
  | .flCol, q => q == .flCol || q == .flRow || q == .idle
  | .flRow, q => q == .flRow || q == .flChunk || q == .idle
  | .flChunk, q => q == .flChunk || q == .idle
  | .init, q => q == .init || q == .idle
  | .fault, q => q == .fault

/-- The chunk on the bus is the flush's last one (42_bus R170). -/
def lastChunk (s : State) : Bool :=
  decide (s.halfwidth.toNat < s.x.toNat + 8) && decide (s.y.toNat = s.hmax.toNat)

/-- Where the bus's answer takes a phase (10_state R25). -/
def phaseAfterAnswer (s : State) (r : Result) : Phase :=
  let cut := r ≠ .ok ∧ s.params.windowErrPolicy = .abort
  match s.phase with
  | .idle => .idle
  | .cmd => .idle
  | .data => .idle
  | .flCol => if cut then .idle else .flRow
  | .flRow => if cut then .idle else .flChunk
  | .flChunk => if lastChunk s then .idle else .flChunk
  | .init => if s.initStep = 18 then .idle else .init
  | .fault => .fault

/-- The frame of a command as a transaction. -/
def commandTransaction (s : State) (t : Tag) (p0 p1 : Byte) : Transaction :=
  ⟨s.cfgAddr, (encodeCommand s.params t p0 p1).frame⟩

/-- Chunk `k` of a flush: eight framebuffer bytes from index 8k on, behind the data control byte (42_bus
R168, R171). -/
def chunkTransaction (s : State) (k : Nat) : Transaction :=
  ⟨s.cfgAddr, s.params.ctrlData :: (List.range 8).map fun j => s.fb.read (8 * k + j)⟩

/-- The transactions of a flush that is not cut short, in order (20_memory R64, 42_bus R171). -/
def flushTrace (s : State) : List Transaction :=
  commandTransaction s .columnAddress 0 s.halfwidth ::
    commandTransaction s .rowAddress 0 s.hmax ::
      (List.range s.nData).map (chunkTransaction s)

/-- The error of the latest failed answer, the earlier ones lost (42_bus R169). -/
def latestError : List Result → Result
  | [] => .ok
  | r :: rest =>
    match latestError rest with
    | .ok => r
    | .err e => .err e

/-- The answers whose errors a flush records (42_bus R166, R169), where neither window ends it. -/
def recordedAnswers (p : WindowErrPolicy) (col row : Result) (chunks : List Result) : List Result :=
  match p with
  | .record => col :: row :: chunks
  | .abort => chunks
  | .discard => chunks

/-- The 19 transactions of the init script (43_init R190). -/
def initTrace (s : State) : List Transaction :=
  (initScript s.params s.halfwidth s.hmax).map fun c => commandTransaction s c.1 c.2.1 c.2.2

/-- What one drawing pair does to the framebuffer (41_pixel R145, R146). -/
def paint (s : State) (m : Memory) (p : BitVec 32 × BitVec 32 × Byte) : Memory :=
  if drawInRange s p.1 p.2.1 then
    let i := (pixIndex s (p.1.setWidth 8) (p.2.1.setWidth 8)).toNat
    m.write i (setNibble (pixHigh (p.1.setWidth 8)) p.2.2 (m.read i))
  else m

/-- The end of a run: IDLE with no request pending (00_scope R14). -/
def State.finished (s : State) : Bool := s.phase == .idle && s.hostReqs.isEmpty

/-- The command drives this output at the encoder port and changes nothing else (10_state R35). -/
def drives (i : Instr) (s : State) (out : EncOut) : Prop :=
  exec i s = .next { s with encOut := out }

/-- `k` steps of the block, stopping at the first that is no next state. -/
def runSteps : Nat → State → Host.Outcome State Fault Refusal
  | 0, s => .next s
  | k + 1, s =>
    match step s with
    | .next t => runSteps k t
    | .fault f => .fault f
    | .refused r => .refused r

/-- The next step takes no construction event and no encoder query. -/
def quietPorts (s : State) : Prop := s.resetPort = none ∧ s.encPort = none

/-- The six requests of 30_encoding R89. -/
def isRequest (i : Instr) : Bool :=
  match encode i with
  | .query _ => false
  | .request _ => true

/-- The configuration a block was built with is what it was. -/
def sameConfig (s t : State) : Prop :=
  t.cfgWidth = s.cfgWidth ∧ t.cfgHeight = s.cfgHeight ∧ t.cfgAddr = s.cfgAddr ∧ t.params = s.params ∧
    t.wmax = s.wmax ∧ t.hmax = s.hmax ∧ t.halfwidth = s.halfwidth

end Sys2Proof.Machine
end

