-- ==== Sys2Proof/Certificates/Slice0/Obligations.lean ====
section
/-! DEFINITION. The statements for the provers, in the order of OBLIGATIONS.json. -/

open Sys2Proof Sys2Proof.Machine

/-! ### Encoding and decoding -/

/-- Words written out from the opcode table and 30_encoding R81 to R83, R86, R89 decode to what they stand
for, under both control bytes. The opcode bytes are the default instance (log entry 2), the layout is log
entry 14. -/
def Obligations.OpcodeTableWordsDecode : Prop :=
  decodeTableWord 32 0x8015003F = some (.columnAddress 0x00 0x3F) ∧
  decodeTableWord 32 0x0075007F = some (.rowAddress 0x00 0x7F) ∧
  decodeTableWord 24 0x80817F = some (.contrast 0x7F) ∧
  decodeTableWord 24 0x00D562 = some (.functionSelectB 0x62) ∧
  decodeTableWord 24 0x80AB01 = some .internalVdd ∧
  decodeTableWord 24 0x80AB00 = some .externalVdd ∧
  decodeTableWord 24 0x80FD16 = some .lock ∧
  decodeTableWord 16 0x80AF = some .displayOn ∧
  decodeTableWord 16 0x00B9 = some .linearLut ∧
  decodeTableWord 8 2 = some (.setPixel 0 0 0) ∧
  decodeTableWord 8 4 = some .flush ∧
  decodeTableWord 8 6 = none

/-- Decoding what the encoder writes gives every well-formed instruction back, at every operand (R85, R87,
R89). -/
def Obligations.DecodeEncodeRoundTrip : Prop :=
  ∀ i : Instr, i.wellFormed = true → decode (encode i) = .ok i

/-- Under the default opcode and fixed-value tables (log entry 2, the spec's own general knowledge) every
command's frame decodes back to that command with its parameter bytes, under either control byte: the pairs
of tags that share an opcode are told apart (R86). -/
def Obligations.SentFramesDecodeBack : Prop :=
  ∀ (p : Params) (i : Instr) (bytes : List Byte),
    (p.rev.ctrlCmd = 0x80 ∨ p.rev.ctrlCmd = 0x00) → p.opc = defaultOpc → p.fixv = defaultFixv →
      frameOf p i = some bytes → decodeFrame p.opc p.fixv bytes = .ok i

/-- Exactly the reserved codes are rejected: request codes 6 and 7, and tag codes 25..31 at the encoder
port; every other port word is an instruction (R91). -/
def Obligations.OnlyReservedCodesRejected : Prop :=
  ∀ w : PortWord,
    (decode w = .error .badOp ↔ ∃ r, w = .request r ∧ 6 ≤ r.op.toNat) ∧
    (decode w = .error .reservedTag ↔ ∃ q, w = .query q ∧ 25 ≤ q.tag.toNat) ∧
    ((∃ i, decode w = .ok i) ↔
      ((∃ r, w = .request r ∧ r.op.toNat < 6) ∨ ∃ q, w = .query q ∧ q.tag.toNat < 25))

/-! ### The command encoder -/

/-- `Encode` by class, tag by tag (R100): control byte, opcode, then nothing, `p0`, the fixed value, or
start and end, padded with 0x00. -/
def Obligations.EncodeByClass : Prop :=
  ∀ (p : Params) (p0 p1 : Byte),
    (∀ t ∈ [Tag.normalDisplay, .allOn, .allOff, .inverseDisplay, .displayOff, .displayOn, .linearLut],
      encodeCommand p t p0 p1 = ⟨p.rev.ctrlCmd, opcOf p.opc t, 0x00, 0x00, 2⟩) ∧
    (∀ t ∈ [Tag.contrast, .remap, .startLine, .displayOffset, .muxRatio, .phaseLength, .clockOsc, .gpio,
        .secondPrecharge, .prechargeVoltage, .vcomh, .functionSelectB],
      encodeCommand p t p0 p1 = ⟨p.rev.ctrlCmd, opcOf p.opc t, p0, 0x00, 3⟩) ∧
    (∀ t ∈ [Tag.internalVdd, .externalVdd, .unlock, .lock],
      encodeCommand p t p0 p1 = ⟨p.rev.ctrlCmd, opcOf p.opc t, fixvOf p.fixv t, 0x00, 3⟩) ∧
    (∀ t ∈ [Tag.columnAddress, .rowAddress],
      encodeCommand p t p0 p1 = ⟨p.rev.ctrlCmd, opcOf p.opc t, p0, p1, 4⟩)

/-- The whole-table properties of R127: the first two bytes; the length census; what a frame depends on;
and that a frame holds the data control byte only as an opcode or parameter byte. (That equal arguments
give equal frames holds of any function.) -/
def Obligations.EncoderTableProperties : Prop :=
  ∀ p : Params,
    (∀ t p0 p1, (encodeCommand p t p0 p1).frame.take 2 = [p.rev.ctrlCmd, opcOf p.opc t]) ∧
    (∀ p0 p1, Tag.all.length = 25 ∧
      Tag.all.filter (fun t => (encodeCommand p t p0 p1).frame.length == 4) = [.columnAddress, .rowAddress] ∧
      (Tag.all.filter (fun t => (encodeCommand p t p0 p1).frame.length == 3)).map (fun t => t.code.toNat) =
        [2, 3, 4, 5, 10, 11, 12, 15, 16, 17, 18, 20, 21, 22, 23, 24] ∧
      (Tag.all.filter (fun t => (encodeCommand p t p0 p1).frame.length == 2)).map (fun t => t.code.toNat) =
        [6, 7, 8, 9, 13, 14, 19]) ∧
    (∀ t, t.arity = .n ∨ t.arity = .f → ∀ p0 p1 q0 q1, encodeCommand p t p0 p1 = encodeCommand p t q0 q1) ∧
    (∀ t, t.arity = .v → ∀ p0 p1 q0 q1, encodeCommand p t p0 p1 = encodeCommand p t q0 q1 ↔ p0 = q0) ∧
    (∀ t, t.arity = .w → ∀ p0 p1 q0 q1,
      encodeCommand p t p0 p1 = encodeCommand p t q0 q1 ↔ p0 = q0 ∧ p1 = q1) ∧
    (p.ctrlData ≠ p.rev.ctrlCmd → ∀ t p0 p1, (encodeCommand p t p0 p1).frame.head? ≠ some p.ctrlData ∧
      (p.ctrlData ∈ (encodeCommand p t p0 p1).frame →
        p.ctrlData = opcOf p.opc t ∨ p.ctrlData ∈ (encodeCommand p t p0 p1).frame.drop 2))

/-- The two window commands at the encoder port: start and end verbatim, nothing else changes (R102,
R103). -/
def Obligations.WindowCommandsEncode : Prop :=
  ∀ (a b : Byte) (s : State),
    drives (.columnAddress a b) s ⟨s.params.rev.ctrlCmd, opcOf s.params.opc .columnAddress, a, b, 4⟩ ∧
    drives (.rowAddress a b) s ⟨s.params.rev.ctrlCmd, opcOf s.params.opc .rowAddress, a, b, 4⟩

/-- The twelve single-value commands at the encoder port: the value verbatim, nothing else changes (R104
to R107, R112, R117 to R120, R122 to R124). -/
def Obligations.ValueCommandsEncode : Prop :=
  ∀ (v : Byte) (s : State),
    drives (.contrast v) s ⟨s.params.rev.ctrlCmd, opcOf s.params.opc .contrast, v, 0, 3⟩ ∧
    drives (.remap v) s ⟨s.params.rev.ctrlCmd, opcOf s.params.opc .remap, v, 0, 3⟩ ∧
    drives (.startLine v) s ⟨s.params.rev.ctrlCmd, opcOf s.params.opc .startLine, v, 0, 3⟩ ∧
    drives (.displayOffset v) s ⟨s.params.rev.ctrlCmd, opcOf s.params.opc .displayOffset, v, 0, 3⟩ ∧
    drives (.muxRatio v) s ⟨s.params.rev.ctrlCmd, opcOf s.params.opc .muxRatio, v, 0, 3⟩ ∧
    drives (.phaseLength v) s ⟨s.params.rev.ctrlCmd, opcOf s.params.opc .phaseLength, v, 0, 3⟩ ∧
    drives (.clockOsc v) s ⟨s.params.rev.ctrlCmd, opcOf s.params.opc .clockOsc, v, 0, 3⟩ ∧
    drives (.gpio v) s ⟨s.params.rev.ctrlCmd, opcOf s.params.opc .gpio, v, 0, 3⟩ ∧
    drives (.secondPrecharge v) s ⟨s.params.rev.ctrlCmd, opcOf s.params.opc .secondPrecharge, v, 0, 3⟩ ∧
    drives (.prechargeVoltage v) s ⟨s.params.rev.ctrlCmd, opcOf s.params.opc .prechargeVoltage, v, 0, 3⟩ ∧
    drives (.vcomh v) s ⟨s.params.rev.ctrlCmd, opcOf s.params.opc .vcomh, v, 0, 3⟩ ∧
    drives (.functionSelectB v) s ⟨s.params.rev.ctrlCmd, opcOf s.params.opc .functionSelectB, v, 0, 3⟩

/-- The four fixed-value commands at the encoder port, each with its own byte of FIXV (R113, R114, R125,
R126). -/
def Obligations.FixedCommandsEncode : Prop :=
  ∀ s : State,
    drives .internalVdd s
      ⟨s.params.rev.ctrlCmd, opcOf s.params.opc .internalVdd, s.params.fixv.getD 0 0, 0, 3⟩ ∧
    drives .externalVdd s
      ⟨s.params.rev.ctrlCmd, opcOf s.params.opc .externalVdd, s.params.fixv.getD 1 0, 0, 3⟩ ∧
    drives .unlock s ⟨s.params.rev.ctrlCmd, opcOf s.params.opc .unlock, s.params.fixv.getD 2 0, 0, 3⟩ ∧
    drives .lock s ⟨s.params.rev.ctrlCmd, opcOf s.params.opc .lock, s.params.fixv.getD 3 0, 0, 3⟩

/-- The seven commands without arguments at the encoder port (R108 to R111, R115, R116, R121). -/
def Obligations.PlainCommandsEncode : Prop :=
  ∀ s : State,
    drives .normalDisplay s ⟨s.params.rev.ctrlCmd, opcOf s.params.opc .normalDisplay, 0, 0, 2⟩ ∧
    drives .allOn s ⟨s.params.rev.ctrlCmd, opcOf s.params.opc .allOn, 0, 0, 2⟩ ∧
    drives .allOff s ⟨s.params.rev.ctrlCmd, opcOf s.params.opc .allOff, 0, 0, 2⟩ ∧
    drives .inverseDisplay s ⟨s.params.rev.ctrlCmd, opcOf s.params.opc .inverseDisplay, 0, 0, 2⟩ ∧
    drives .displayOff s ⟨s.params.rev.ctrlCmd, opcOf s.params.opc .displayOff, 0, 0, 2⟩ ∧
    drives .displayOn s ⟨s.params.rev.ctrlCmd, opcOf s.params.opc .displayOn, 0, 0, 2⟩ ∧
    drives .linearLut s ⟨s.params.rev.ctrlCmd, opcOf s.params.opc .linearLut, 0, 0, 2⟩

/-- The frames of R86's table, for every block that uses its default instance (log entry 2, the spec's own
general knowledge). -/
def Obligations.DefaultInstanceFrames : Prop :=
  ∀ (a b : Byte) (s : State), s.params.opc = defaultOpc → s.params.fixv = defaultFixv →
    ∀ e ∈ [(Instr.columnAddress a b, [0x15, a, b]), (.rowAddress a b, [0x75, a, b]),
        (.contrast a, [0x81, a]), (.remap a, [0xA0, a]), (.startLine a, [0xA1, a]),
        (.displayOffset a, [0xA2, a]), (.normalDisplay, [0xA4]), (.allOn, [0xA5]), (.allOff, [0xA6]),
        (.inverseDisplay, [0xA7]), (.muxRatio a, [0xA8, a]), (.internalVdd, [0xAB, 0x01]),
        (.externalVdd, [0xAB, 0x00]), (.displayOff, [0xAE]), (.displayOn, [0xAF]),
        (.phaseLength a, [0xB1, a]), (.clockOsc a, [0xB3, a]), (.gpio a, [0xB5, a]),
        (.secondPrecharge a, [0xB6, a]), (.linearLut, [0xB9]), (.prechargeVoltage a, [0xBC, a]),
        (.vcomh a, [0xBE, a]), (.functionSelectB a, [0xD5, a]), (.unlock, [0xFD, 0x12]),
        (.lock, [0xFD, 0x16])],
      ∃ t, exec e.1 s = .next t ∧ t.encOut.frame = s.params.rev.ctrlCmd :: e.2

/-- A reserved tag code at the encoder port reaches neither the encoder nor the bus: the port gives
`enc_len` = 0 (R91). The zero bytes of the array are log entry 8's. -/
def Obligations.ReservedTagGivesLengthZero : Prop :=
  ∀ (s : State) (q : EncQuery), s.resetPort = none → s.encPort = some q → 25 ≤ q.tag.toNat →
    step s = .next { s with encPort := none, encOut := ⟨0, 0, 0, 0, 0⟩ }

/-! ### Steps -/

/-- A step runs the decoded instruction, on the state that took it from its port: an encoder query is
consumed (in any phase), a request leaves the host and is latched in REQ (in IDLE). -/
def Obligations.StepRunsDecodedInstruction : Prop :=
  (∀ (s : State) (w : PortWord) (i : Instr), s.resetPort = none → fetch s = some w → decode w = .ok i →
    step s = exec i (accept w s)) ∧
  (∀ (s : State) (q : EncQuery), s.encPort = some q → fetch s = some (.query q)) ∧
  (∀ (s : State) (r : Request) (rest : List Request), s.encPort = none → s.phase = .idle →
    s.hostReqs = r :: rest → fetch s = some (.request r)) ∧
  (∀ (s : State) (q : EncQuery), accept (.query q) s = { s with encPort := none }) ∧
  (∀ (s : State) (r : Request),
    accept (.request r) s = { s with hostReqs := s.hostReqs.tail, req := some r })

/-- A request is taken in IDLE only: outside it, each of the six requests does nothing, and a step leaves
the host's requests where they are (R27, R34). -/
def Obligations.RequestsWaitWhileBusy : Prop :=
  (∀ (s : State) (i : Instr), isRequest i = true → s.phase ≠ .idle → exec i s = .next s) ∧
  (∀ s t : State, s.phase ≠ .idle → step s = .next t → t.hostReqs = s.hostReqs) ∧
  (∀ s : State, s.reqReady = true ↔ s.phase = .idle)

/-- With a transaction on the bus and no answer the block waits, unchanged; so does an idle block without a
request (R31, R221). -/
def Obligations.BlockWaits : Prop :=
  ∀ s : State, quietPorts s →
    (s.phase.onBus = true → s.busIn = [] → step s = .next s) ∧
    (s.phase = .idle → s.hostReqs = [] → step s = .next s)

/-! ### SEND_CMD and SEND_DATA -/

/-- An accepted SEND_CMD of one of the 25 tags puts its frame on the bus in PHASE CMD: TXLEN is the frame's
length and the staging bytes below it are the frame (of those at and beyond it nothing is said, R29); nothing
else changes (R161). -/
def Obligations.SendCmdStarts : Prop :=
  ∀ (s : State) (c : BitVec 5) (t : Tag) (p0 p1 : Byte), s.phase = .idle → Tag.ofCode c = some t →
    ∃ buf : List Byte,
      exec (.sendCmd c p0 p1) s = .next { s with
        phase := .cmd
        txbuf := buf
        txlen := BitVec.ofNat 4 t.arity.frameLen
        busLog := s.busLog ++ [⟨s.cfgAddr, (encodeCommand s.params t p0 p1).frame⟩] } ∧
      buf.take t.arity.frameLen = (encodeCommand s.params t p0 p1).frame

/-- A SEND_CMD with a tag code 25..31 raises Fault(BAD_TAG) before any transaction, with no response
(R215). -/
def Obligations.SendCmdBadTagFaults : Prop :=
  ∀ (s : State) (c : BitVec 5) (p0 p1 : Byte), s.phase = .idle → 25 ≤ c.toNat →
    exec (.sendCmd c p0 p1) s = .next { s with phase := .fault, faulted := true, faultCause := .badTag }

/-- SEND_CMD from its presentation to its response: one transaction to the target address with exactly the
encoded frame, then the bus's answer verbatim; a reserved tag faults instead, with no transaction and no
response. FB and LAST_ERR stay. Of the staging bytes only those below TXLEN are said, which are the frame
(R161, R29). -/
def Obligations.SendCmdAnswersVerbatim : Prop :=
  ∀ (s : State) (r : Request) (rest : List Request), quietPorts s → s.phase = .idle →
    s.hostReqs = r :: rest → r.op = 0 →
    (∀ (t : Tag) (ans : Result) (more : List Result), Tag.ofCode r.tag = some t → s.busIn = ans :: more →
      ∃ buf : List Byte,
        runSteps 2 s = .next { s with
          hostReqs := rest
          busIn := more
          req := none
          txbuf := buf
          txlen := BitVec.ofNat 4 t.arity.frameLen
          busLog := s.busLog ++ [⟨s.cfgAddr, (encodeCommand s.params t r.p0 r.p1).frame⟩]
          respLog := s.respLog ++ [ans] } ∧
        buf.take t.arity.frameLen = (encodeCommand s.params t r.p0 r.p1).frame) ∧
    (Tag.ofCode r.tag = none →
      step s = .next { s with
        hostReqs := rest, req := some r, phase := .fault, faulted := true, faultCause := .badTag })

/-- An accepted SEND_DATA puts the data control byte and its eight bytes on the bus in PHASE DATA, and
nothing else changes (R162). -/
def Obligations.SendDataStarts : Prop :=
  ∀ (s : State) (d : Data8), s.phase = .idle →
    exec (.sendData d) s = .next { s with
      phase := .data
      txbuf := [s.params.ctrlData, d.d0, d.d1, d.d2, d.d3, d.d4, d.d5, d.d6, d.d7] ++ s.txbuf.drop 9
      txlen := 9
      busLog := s.busLog ++
        [⟨s.cfgAddr, [s.params.ctrlData, d.d0, d.d1, d.d2, d.d3, d.d4, d.d5, d.d6, d.d7]⟩] }

/-- SEND_DATA from its presentation to its response: one nine-byte transaction, then the bus's answer
verbatim; FB and LAST_ERR stay (R162). -/
def Obligations.SendDataAnswersVerbatim : Prop :=
  ∀ (s : State) (r : Request) (rest : List Request) (ans : Result) (more : List Result), quietPorts s →
    s.phase = .idle → s.hostReqs = r :: rest → r.op = 1 → s.busIn = ans :: more →
    runSteps 2 s = .next { s with
      hostReqs := rest
      busIn := more
      req := none
      txbuf := (s.params.ctrlData :: r.data.toList) ++ s.txbuf.drop 9
      txlen := 9
      busLog := s.busLog ++ [⟨s.cfgAddr, s.params.ctrlData :: r.data.toList⟩]
      respLog := s.respLog ++ [ans] }

/-! ### The pixel indexer -/

/-- An in-range coordinate's byte index is `x div 2 + y * STRIDE`, exact and below FBLEN, at most 8191, and
the last pixel's is FBLEN - 1 (R52, R149); it is the index whose two pixels R60 names: the even x in the high
nibble. -/
def Obligations.PixelIndexExact : Prop :=
  ∀ (s : State) (x y : Byte), ConfigInv s → x.toNat ≤ s.wmax.toNat → y.toNat ≤ s.hmax.toNat →
    (pixIndex s x y).toNat = x.toNat / 2 + y.toNat * s.stride.toNat ∧
    (pixIndex s x y).toNat < s.fbLen ∧ (pixIndex s x y).toNat ≤ 8191 ∧
    (pixIndex s s.wmax s.hmax).toNat = s.fbLen - 1 ∧
    (pixHigh x = true ↔ x.toNat % 2 = 0) ∧
    (if pixHigh x then (pixelsOfIndex s (pixIndex s x y).toNat).1
      else (pixelsOfIndex s (pixIndex s x y).toNat).2) = (x.toNat, y.toNat)

/-- The framebuffer holds `buffer_size(WIDTH, HEIGHT) = (WIDTH div 2) * HEIGHT` bytes, at most 8192 (R51,
R148). -/
def Obligations.BufferSizeIsFblen : Prop :=
  (∀ s : State, ConfigInv s → s.fbLen = bufferSize s.cfgWidth.toNat s.cfgHeight.toNat ∧ s.fbLen ≤ 8192) ∧
    bufferSize 128 128 = 8192 ∧ bufferSize 4 2 = 4

/-- SET_PIXEL in range: it answers a next state in which one nibble of the byte at PixIndex is the low four
bits of the value (even x: the high nibble), its other nibble and every other byte read as before, the
response is OK, and nothing else changes (R140, R142, R143). -/
def Obligations.SetPixelWritesOneNibble : Prop :=
  ∀ (s : State) (x y v : Byte), ConfigInv s → s.fb.wf = true → s.phase = .idle →
    x.toNat ≤ s.wmax.toNat → y.toNat ≤ s.hmax.toNat →
    ∃ m : Memory,
      exec (.setPixel x y v) s =
        .next { s with fb := m, req := none, respLog := s.respLog ++ [.ok] } ∧
      (x.toNat % 2 = 0 → m.read (pixIndex s x y).toNat =
        (s.fb.read (pixIndex s x y).toNat &&& 0x0F) ||| ((v &&& 0x0F) <<< 4)) ∧
      (x.toNat % 2 = 1 → m.read (pixIndex s x y).toNat =
        (s.fb.read (pixIndex s x y).toNat &&& 0xF0) ||| (v &&& 0x0F)) ∧
      (∀ a, a ≠ (pixIndex s x y).toNat → m.read a = s.fb.read a) ∧
      m.wf = true

/-- SET_PIXEL out of range is a silent no-op with response OK: FB stays as it is (R141). -/
def Obligations.SetPixelOutOfRangeIgnored : Prop :=
  ∀ (s : State) (x y v : Byte), s.phase = .idle →
    (s.wmax.toNat < x.toNat ∨ s.hmax.toNat < y.toNat) →
    exec (.setPixel x y v) s = .next { s with req := none, respLog := s.respLog ++ [.ok] }

/-- Item 1 of R144, nibble by nibble: the nibble written equals the low four bits of the value, and every
other nibble of FB is unchanged. -/
def Obligations.PixelWriteNibbleFrame : Prop :=
  ∀ (s t : State) (x y v : Byte), ConfigInv s → s.fb.wf = true → s.phase = .idle →
    x.toNat ≤ s.wmax.toNat → y.toNat ≤ s.hmax.toNat → exec (.setPixel x y v) s = .next t →
    nibble (pixHigh x) (t.fb.read (pixIndex s x y).toNat) = v.setWidth 4 ∧
    ∀ (a : Nat) (high : Bool), (a, high) ≠ ((pixIndex s x y).toNat, pixHigh x) →
      nibble high (t.fb.read a) = nibble high (s.fb.read a)

/-- Items 2 to 4 of R144: writes to the two nibbles of one byte commute and leave `(a << 4) | c`; of two
writes to one pixel the later wins, so that a repeated write changes nothing. -/
def Obligations.PixelWritesComposeAsStated : Prop :=
  ∀ (s : State), ConfigInv s → s.fb.wf = true → s.phase = .idle →
    (∀ (x y a c : Byte), x.toNat % 2 = 0 → x.toNat + 1 ≤ s.wmax.toNat → y.toNat ≤ s.hmax.toNat →
      ∃ t u t' u', exec (.setPixel x y a) s = .next t ∧ exec (.setPixel (x + 1) y c) t = .next u ∧
        exec (.setPixel (x + 1) y c) s = .next t' ∧ exec (.setPixel x y a) t' = .next u' ∧
        u.fb = u'.fb ∧ u.fb.read (pixIndex s x y).toNat = ((a &&& 0x0F) <<< 4) ||| (c &&& 0x0F)) ∧
    (∀ (x y a c : Byte), x.toNat ≤ s.wmax.toNat → y.toNat ≤ s.hmax.toNat →
      ∃ t u t', exec (.setPixel x y a) s = .next t ∧ exec (.setPixel x y c) t = .next u ∧
        exec (.setPixel x y c) s = .next t' ∧ u.fb = t'.fb ∧ (a = c → u.fb = t.fb))

/-- DRAW_PIXEL inside the configured extent is SET_PIXEL at the narrowed coordinates, which are the
coordinates themselves (R145). -/
def Obligations.DrawPixelInsideIsSetPixel : Prop :=
  ∀ (s : State) (sx sy : BitVec 32) (v : Byte), ConfigInv s → s.phase = .idle →
    0 ≤ sx.toInt → sx.toInt < s.cfgWidth.toNat → 0 ≤ sy.toInt → sy.toInt < s.cfgHeight.toNat →
    ∃ m : Memory,
      exec (.drawPixel sx sy v) s =
        .next { s with fb := m, req := none, respLog := s.respLog ++ [.ok] } ∧
      exec (.drawPixel sx sy v) s = exec (.setPixel (sx.setWidth 8) (sy.setWidth 8) v) s ∧
      ((sx.setWidth 8).toNat : Int) = sx.toInt ∧ ((sy.setWidth 8).toNat : Int) = sy.toInt ∧
      (sx.setWidth 8).toNat ≤ s.wmax.toNat ∧ (sy.setWidth 8).toNat ≤ s.hmax.toNat

/-- DRAW_PIXEL with a negative coordinate or one at or past the extent is discarded with response OK, on
the full 32-bit values (R145). -/
def Obligations.DrawPixelOutsideDiscarded : Prop :=
  ∀ (s : State) (sx sy : BitVec 32) (v : Byte), s.phase = .idle →
    (sx.toInt < 0 ∨ sy.toInt < 0 ∨ (s.cfgWidth.toNat : Int) ≤ sx.toInt ∨
      (s.cfgHeight.toNat : Int) ≤ sy.toInt) →
    exec (.drawPixel sx sy v) s = .next { s with req := none, respLog := s.respLog ++ [.ok] }

/-- A batch of drawing pairs takes effect pair by pair, in order; a discarded pair does not stop it; each
pair responds OK and nothing is transmitted (R146). -/
def Obligations.BatchPaintsInOrder : Prop :=
  ∀ (pairs : List (BitVec 32 × BitVec 32 × Byte)) (s : State) (rest : List Request), ConfigInv s →
    quietPorts s → s.phase = .idle → s.req = none → s.hostReqs = drawBatch pairs ++ rest →
    runSteps pairs.length s = .next { s with
      hostReqs := rest
      fb := pairs.foldl (paint s) s.fb
      respLog := s.respLog ++ List.replicate pairs.length .ok }

/-- Which step changes the framebuffer: without a construction, only one that takes a SET_PIXEL or
DRAW_PIXEL, and that step emits no transaction, writes no LAST_ERR and responds OK (R51, R63, R173, R193). -/
def Obligations.OnlyPixelRequestsChangeFb : Prop :=
  ∀ s t : State, s.resetPort = none → step s = .next t → t.fb ≠ s.fb →
    s.phase = .idle ∧ (∃ r rest, s.hostReqs = r :: rest ∧ (r.op = 2 ∨ r.op = 3)) ∧
    t.busLog = s.busLog ∧ t.respLog = s.respLog ++ [.ok] ∧ t.phase = .idle ∧
    t.lastErrValid = s.lastErrValid ∧ t.lastErr = s.lastErr ∧ t.faulted = s.faulted

/-! ### FLUSH -/

/-- An accepted FLUSH whose precondition holds clears LAST_ERR.valid and sends the full column window
`(0, HALFWIDTH)` in PHASE FL_COL, staged below TXLEN = 4; nothing else changes (R164). -/
def Obligations.FlushStartsWithColumnWindow : Prop :=
  ∀ s : State, s.phase = .idle → s.stride.toNat % 8 = 0 →
    ∃ buf : List Byte,
      exec .flush s = .next { s with
        phase := .flCol
        lastErrValid := false
        txbuf := buf
        txlen := 4
        busLog := s.busLog ++
          [⟨s.cfgAddr, [s.params.rev.ctrlCmd, opcOf s.params.opc .columnAddress, 0, s.halfwidth]⟩] } ∧
      buf.take 4 = [s.params.rev.ctrlCmd, opcOf s.params.opc .columnAddress, 0, s.halfwidth]

/-- FLUSH on a geometry whose width is no multiple of 16 raises Fault(FLUSH_GEOMETRY) when it is accepted,
with no transaction and no response (R163). -/
def Obligations.FlushGeometryFaults : Prop :=
  ∀ s : State, ConfigInv s → s.phase = .idle →
    (s.stride.toNat % 8 ≠ 0 ↔ s.cfgWidth.toNat % 16 ≠ 0) ∧
    (s.cfgWidth.toNat % 16 ≠ 0 →
      exec .flush s =
        .next { s with phase := .fault, faulted := true, faultCause := .flushGeometry })

/-- After the column window is answered, unless ABORT ends the flush, the row window `(0, HMAX)` goes out
in PHASE FL_ROW (R165). -/
def Obligations.RowWindowFollowsColumnWindow : Prop :=
  ∀ (s : State) (r : Result) (more : List Result), quietPorts s → s.phase = .flCol → s.busIn = r :: more →
    (r = .ok ∨ s.params.windowErrPolicy ≠ .abort) →
    ∃ t, step s = .next t ∧ t.phase = .flRow ∧ t.busIn = more ∧
      t.busLog = s.busLog ++
        [⟨s.cfgAddr, [s.params.rev.ctrlCmd, opcOf s.params.opc .rowAddress, 0, s.hmax]⟩] ∧
      t.respLog = s.respLog ∧ t.fb = s.fb ∧ t.req = s.req

/-- What a failed window transaction does, by policy, in both window phases: ABORT responds the error at
once and makes no later transaction, RECORD records the error and goes on exactly as after a success,
DISCARD goes on exactly as after a success (R166). -/
def Obligations.WindowErrorByPolicy : Prop :=
  ∀ (s : State) (e : TransportError) (more : List Result), quietPorts s →
    s.phase = .flCol ∨ s.phase = .flRow →
    (s.params.windowErrPolicy = .abort →
      step { s with busIn := .err e :: more } = .next { s with
        busIn := more, phase := .idle, req := none, respLog := s.respLog ++ [.err e] }) ∧
    (s.params.windowErrPolicy = .record →
      step { s with busIn := .err e :: more } =
        step { s with busIn := .ok :: more, lastErrValid := true, lastErr := e }) ∧
    (s.params.windowErrPolicy = .discard →
      step { s with busIn := .err e :: more } = step { s with busIn := .ok :: more })

/-- After the row window is answered, unless ABORT ends the flush, the chunk loop starts at row 0, column
0, with the first eight framebuffer bytes (R167, R168). -/
def Obligations.ChunkLoopStartsAtZero : Prop :=
  ∀ (s : State) (r : Result) (more : List Result), BlockInv s → quietPorts s → s.phase = .flRow →
    s.busIn = r :: more → (r = .ok ∨ s.params.windowErrPolicy ≠ .abort) →
    ∃ t, step s = .next t ∧ t.phase = .flChunk ∧ t.y = 0 ∧ t.x = 0 ∧ t.busIn = more ∧
      t.busLog = s.busLog ++ [chunkTransaction s 0] ∧ t.respLog = s.respLog ∧ t.fb = s.fb

/-- After a chunk is answered the loop advances: the next eight columns of the row, else the next row at
column 0, each with one transaction of the eight bytes there, behind the data control byte; after the last
chunk the flush responds (R167, R168, R170). -/
def Obligations.ChunkLoopAdvances : Prop :=
  ∀ (s : State) (r : Result) (more : List Result), BlockInv s → quietPorts s → s.phase = .flChunk →
    s.busIn = r :: more →
    ∃ t, step s = .next t ∧ t.busIn = more ∧ t.fb = s.fb ∧
      (if s.x.toNat + 8 ≤ s.halfwidth.toNat then
        t.phase = .flChunk ∧ t.x.toNat = s.x.toNat + 8 ∧ t.y = s.y ∧ t.respLog = s.respLog ∧
        t.busLog = s.busLog ++ [⟨s.cfgAddr, s.params.ctrlData :: (List.range 8).map
          fun k => s.fb.read (s.x.toNat + 8 + s.y.toNat * s.stride.toNat + k)⟩]
      else if s.y.toNat < s.hmax.toNat then
        t.phase = .flChunk ∧ t.x = 0 ∧ t.y.toNat = s.y.toNat + 1 ∧ t.respLog = s.respLog ∧
        t.busLog = s.busLog ++ [⟨s.cfgAddr, s.params.ctrlData :: (List.range 8).map
          fun k => s.fb.read ((s.y.toNat + 1) * s.stride.toNat + k)⟩]
      else
        t.phase = .idle ∧ t.x = 0 ∧ t.y = 0 ∧ t.req = none ∧ t.busLog = s.busLog ∧
        t.respLog = s.respLog ++ [flushResult t])

/-- A failed chunk is recorded in LAST_ERR and the flush goes on as after a success; a successful chunk
leaves LAST_ERR as it stands (R169). -/
def Obligations.ChunkErrorRecordedAndFlushContinues : Prop :=
  ∀ (s : State) (e : TransportError) (more : List Result), quietPorts s → s.phase = .flChunk →
    step { s with busIn := .err e :: more } =
      step { s with busIn := .ok :: more, lastErrValid := true, lastErr := e } ∧
    (∀ t, step { s with busIn := .ok :: more } = .next t →
      t.lastErrValid = s.lastErrValid ∧ t.lastErr = s.lastErr)

/-- A whole flush that no window error cuts short: for every answer of the bus it makes exactly
`2 + NDATA` transactions, the column window, the row window, then every framebuffer byte once in ascending
index order, eight to a transaction; it responds the latest recorded error, or OK, and leaves FB as it was
(R171, R172, R173). -/
def Obligations.WholeFlushTrace : Prop :=
  ∀ (s : State) (r : Request) (rest : List Request) (col row : Result) (chunks more : List Result),
    BlockInv s → quietPorts s → s.phase = .idle → s.hostReqs = r :: rest → r.op = 4 →
    s.cfgWidth.toNat % 16 = 0 → s.busIn = col :: row :: (chunks ++ more) → chunks.length = s.nData →
    (s.params.windowErrPolicy = .abort → col = .ok ∧ row = .ok) →
    ∃ t, runSteps (3 + s.nData) s = .next t ∧
      t.phase = .idle ∧ t.req = none ∧ t.hostReqs = rest ∧ t.busIn = more ∧ t.fb = s.fb ∧
      t.x = 0 ∧ t.y = 0 ∧
      t.busLog = s.busLog ++ flushTrace s ∧ (flushTrace s).length = 2 + s.nData ∧
      t.respLog =
        s.respLog ++ [latestError (recordedAnswers s.params.windowErrPolicy col row chunks)] ∧
      flushResult t = latestError (recordedAnswers s.params.windowErrPolicy col row chunks)

/-- The data bytes of a flush, chunk after chunk, are the framebuffer's bytes 0 to FBLEN-1, each once in
ascending order, so `8 * NDATA = FBLEN` (R171). -/
def Obligations.FlushCarriesEveryByteOnce : Prop :=
  ∀ s : State, ConfigInv s → s.cfgWidth.toNat % 16 = 0 →
    8 * s.nData = s.fbLen ∧
    (((flushTrace s).drop 2).map fun t => t.bytes.tail).flatten =
      (List.range s.fbLen).map fun i => s.fb.read i

/-! ### INIT -/

/-- An accepted INIT sends the frame of UNLOCK in PHASE INIT, staged below TXLEN = 3; nothing else changes
(R195). -/
def Obligations.InitStartsWithUnlock : Prop :=
  ∀ s : State, s.phase = .idle →
    ∃ buf : List Byte,
      exec .init s = .next { s with
        phase := .init
        initStep := 0
        txbuf := buf
        txlen := 3
        busLog := s.busLog ++
          [⟨s.cfgAddr,
            [s.params.rev.ctrlCmd, opcOf s.params.opc .unlock, fixvOf s.params.fixv .unlock]⟩] } ∧
      buf.take 3 = [s.params.rev.ctrlCmd, opcOf s.params.opc .unlock, fixvOf s.params.fixv .unlock]

/-- The answer of an init step is discarded: every answer has the effect of every other, and LAST_ERR and
FB stay (R191, R193). -/
def Obligations.InitDiscardsAnswers : Prop :=
  ∀ (s : State) (a b : Result) (more : List Result), quietPorts s → s.phase = .init →
    step { s with busIn := a :: more } = step { s with busIn := b :: more } ∧
    ∃ t, step { s with busIn := a :: more } = .next t ∧ t.fb = s.fb ∧
      t.lastErrValid = s.lastErrValid ∧ t.lastErr = s.lastErr

/-- A whole INIT: for every nineteen answers it makes the nineteen transactions of the script in order and
responds OK; FB and LAST_ERR stay (R190, R192, R193, R195). -/
def Obligations.WholeInitTrace : Prop :=
  ∀ (s : State) (r : Request) (rest : List Request) (answers more : List Result), quietPorts s →
    s.phase = .idle → s.hostReqs = r :: rest → r.op = 5 → s.busIn = answers ++ more →
    answers.length = 19 →
    ∃ t, runSteps 20 s = .next t ∧
      t.phase = .idle ∧ t.req = none ∧ t.initStep = 0 ∧ t.hostReqs = rest ∧ t.busIn = more ∧
      t.busLog = s.busLog ++ initTrace s ∧ t.respLog = s.respLog ++ [.ok] ∧
      t.fb = s.fb ∧ t.lastErrValid = s.lastErrValid ∧ t.lastErr = s.lastErr ∧ t.faulted = s.faulted

/-- The script, for every parameter: the 19 commands of R190 in order, each with its own parameter bytes,
the windows being `(0, HALFWIDTH)` and `(0, HMAX)` (a command of class N or F takes none, R87). Its trace is
one transaction a command, to the target address, with the frame `Encode` gives for it (R191); in counts two
of 4 bytes, 13 of 3 bytes and 4 of 2 bytes, 55 bytes in all (R195, R255). -/
def Obligations.InitScriptCounts : Prop :=
  ∀ s : State,
    initScript s.params s.halfwidth s.hmax =
      [(.unlock, 0, 0), (.displayOff, 0, 0), (.columnAddress, 0, s.halfwidth), (.rowAddress, 0, s.hmax),
        (.contrast, s.params.initContrast, 0), (.remap, s.params.initRemap, 0),
        (.startLine, s.params.initStartLine, 0), (.displayOffset, s.params.initOffset, 0),
        (.normalDisplay, 0, 0), (.muxRatio, s.params.rev.initMux, 0),
        (.phaseLength, s.params.rev.initPhase, 0), (.linearLut, 0, 0),
        (.clockOsc, s.params.initClock, 0), (.internalVdd, 0, 0),
        (.secondPrecharge, s.params.initPrecharge2, 0), (.vcomh, s.params.rev.initVcomh, 0),
        (.prechargeVoltage, s.params.rev.initPrechargeV, 0), (.functionSelectB, s.params.initFuncB, 0),
        (.displayOn, 0, 0)] ∧
    (initTrace s).length = 19 ∧
    (∀ (k : Nat) (c : Tag × Byte × Byte), (initScript s.params s.halfwidth s.hmax)[k]? = some c →
      (initTrace s)[k]? = some ⟨s.cfgAddr, (encodeCommand s.params c.1 c.2.1 c.2.2).frame⟩) ∧
    (initTrace s).map (fun t => t.bytes.length) =
      [3, 2, 4, 4, 3, 3, 3, 3, 2, 3, 3, 2, 3, 3, 3, 3, 3, 3, 2] ∧
    ((initTrace s).map fun t => t.bytes.length).sum = 55

/-! ### Errors, faults and reset -/

/-- A reserved request code raises Fault(BAD_OP) when it is accepted, before any transaction and with no
response; FB and LAST_ERR stay (R215). -/
def Obligations.ReservedRequestFaults : Prop :=
  ∀ (s : State) (r : Request) (rest : List Request), quietPorts s → s.phase = .idle →
    s.hostReqs = r :: rest → 6 ≤ r.op.toNat →
    step s = .next { s with
      hostReqs := rest, req := some r, phase := .fault, faulted := true, faultCause := .badOp }

/-- FAULT is terminal: without a construction a step there changes nothing but the encoder port, so it
takes no request and makes no transaction (R215). -/
def Obligations.FaultPhaseIsTerminal : Prop :=
  ∀ s : State, s.resetPort = none → s.phase = .fault →
    ∃ t, step s = .next t ∧ t = { s with encPort := none, encOut := t.encOut } ∧
      (s.encPort = none → t = s)

/-- Once FAULTED is 1, no later step but a construction clears it (R28). -/
def Obligations.FaultedIsSticky : Prop :=
  ∀ s t : State, s.resetPort = none → s.faulted = true → step s = .next t → t.faulted = true

/-- Construction with a legal configuration: the configuration registers hold the arguments, the geometry
registers are computed from them, FB holds whatever contents it happens to have, the sequencer is idle and
nothing was transmitted (R240). -/
def Obligations.ConstructionLoadsEveryRegister : Prop :=
  ∀ (c : BlockConfig) (contents : List Byte), checkConfig c = none →
    contents.length = c.width / 2 * c.height →
    ∃ s, construct c contents = .ok s ∧
      s.cfgWidth.toNat = c.width ∧ s.cfgHeight.toNat = c.height ∧ s.cfgAddr = c.targetAddr ∧
      s.params = c.params ∧
      s.wmax.toNat = c.width - 1 ∧ s.hmax.toNat = c.height - 1 ∧ s.halfwidth.toNat = (c.width - 1) / 2 ∧
      s.fbLen = contents.length ∧ (∀ i, i < s.fbLen → s.fb.read i = contents.getD i 0) ∧
      s.phase = .idle ∧ s.y = 0 ∧ s.x = 0 ∧ s.initStep = 0 ∧ s.lastErrValid = false ∧
      s.faulted = false ∧ s.req = none ∧ s.txlen = 0 ∧ s.busLog = [] ∧ BlockInv s

/-- An illegal configuration builds no block and is refused by name, and only an illegal one is: the first
broken line of R6 gives the name (R214). -/
def Obligations.IllegalConfigurationRefused : Prop :=
  ∀ (c : BlockConfig) (contents : List Byte),
    construct c contents =
      if c.width % 2 = 1 ∨ c.width = 0 ∨ 128 < c.width then .error .illegalWidth
      else if c.height = 0 ∨ 128 < c.height then .error .illegalHeight
      else if ¬ (c.params.rev.ctrlCmd = 0x80 ∨ c.params.rev.ctrlCmd = 0x00) then .error .illegalCtrlCmd
      else if c.params.ctrlData = c.params.rev.ctrlCmd then .error .illegalCtrlData
      else if c.params.opc.length ≠ 25 then .error .opcNotTotal
      else if c.params.fixv.length ≠ 4 then .error .fixvNotTotal
      else .ok (build c contents)

/-- A construction event wins over everything and leaves any phase, FAULT too: the block is idle and not
faulted, the counters, LAST_ERR.valid, REQ and TXLEN are at their reset values (R240, R37), the configuration
and FB are the new block's, and no transaction and no response is added (that the event is a port of its own,
with the outside world's inputs kept, is log entries 11 and 16). -/
def Obligations.ConstructionLeavesAnyPhase : Prop :=
  ∀ (s : State) (ev : ResetEvent), s.resetPort = some ev →
    (∀ b, construct ev.config ev.contents = .ok b →
      ∃ t, step s = .next t ∧ t.phase = .idle ∧ t.y = 0 ∧ t.x = 0 ∧ t.initStep = 0 ∧
        t.lastErrValid = false ∧ t.faulted = false ∧ t.req = none ∧ t.txlen = 0 ∧
        sameConfig b t ∧ t.fb = b.fb ∧ t.resetPort = none ∧ t.busLog = s.busLog ∧ t.respLog = s.respLog ∧
        t.hostReqs = s.hostReqs ∧ t.busIn = s.busIn ∧ t.encPort = s.encPort ∧ t.encOut = s.encOut) ∧
    (∀ why, construct ev.config ev.contents = .error why → step s = .refused why)

/-- The machine after reset is the construction with the default geometry and address over nothing listed,
in PHASE IDLE and ready (R37). Its parameters and its FB are the model's choices, log entries 1, 2 and 3. -/
def Obligations.ResetIsDefaultConstruction : Prop :=
  construct ⟨128, 128, 0x3C, resetParams⟩ [] = .ok State.reset ∧ State.reset.phase = .idle ∧
    State.reset.reqReady = true ∧ State.reset.y = 0 ∧ State.reset.x = 0 ∧ State.reset.initStep = 0 ∧
    State.reset.lastErrValid = false ∧ State.reset.faulted = false ∧ State.reset.size = (128, 128) ∧
    State.reset.fbLen = 8192 ∧ State.reset.nData = 1024 ∧ State.reset.busLog = []

/-! ### The whole machine -/

/-- The invariant holds after reset. -/
def Obligations.ResetMeetsInvariant : Prop := BlockInv State.reset

/-- Every step keeps the invariant: the configuration legal and the geometry its, FB in canonical form
inside FBLEN, the sequencer's position in the ranges of R24 with REQ and FAULTED as R28 and R29 say, and
the last emitted transaction on the bus. -/
def Obligations.StepKeepsInvariant : Prop :=
  ∀ s t : State, BlockInv s → step s = .next t → BlockInv t

/-- A block that meets the invariant never stops: no step faults, and only an illegal construction is
refused. -/
def Obligations.NoStepStops : Prop :=
  (∀ s, BlockInv s → ∀ f, step s ≠ .fault f) ∧
  (∀ (s : State) (why : Refusal), step s = .refused why →
    ∃ ev, s.resetPort = some ev ∧ checkConfig ev.config = some why)

/-- PHASE moves only along the edges of R25's table. IDLE is left only when a request is accepted, which
then stays latched, and an accepted request leaves the block in IDLE exactly when it is a SET_PIXEL or a
DRAW_PIXEL; any other phase is left only when the bus has answered; FL_COL and FL_ROW go to IDLE only under
ABORT on an error. In a block that meets the invariant every answer moves PHASE as the table says, to IDLE
from FL_CHUNK after the last chunk and from INIT after step 19 only, and with one response. -/
def Obligations.PhaseMovesOnEdges : Prop :=
  ∀ s t : State, s.resetPort = none → step s = .next t →
    phaseEdge s.phase t.phase = true ∧
    (s.phase = .idle → t.phase ≠ .idle → ∃ r, s.hostReqs = r :: t.hostReqs ∧ t.req = some r) ∧
    (s.phase = .idle → ∀ r, s.hostReqs = r :: t.hostReqs → (t.phase = .idle ↔ r.op = 2 ∨ r.op = 3)) ∧
    (s.phase ≠ .idle → t.phase ≠ s.phase → ∃ r, s.busIn = r :: t.busIn) ∧
    (s.phase = .flCol ∨ s.phase = .flRow → t.phase = .idle →
      s.params.windowErrPolicy = .abort ∧ ∃ e, s.busIn = .err e :: t.busIn) ∧
    (BlockInv s → ∀ r, s.phase.onBus = true → s.busIn = r :: t.busIn →
      t.phase = phaseAfterAnswer s r ∧ (t.phase = .idle → ∃ resp, t.respLog = s.respLog ++ [resp]))

/-- A step emits at most one transaction, it is a tag's frame (CF2, CF3 or CF4) or a data frame of eight
bytes (DF9) at the target address, so that the opcode byte of a command frame is one of the 25 OPC values
(R91), and no transaction starts while an earlier one is unanswered: the step that starts one took the
answer of the one before, or found the block idle (R31, R80). -/
def Obligations.OneLegalTransactionAtATime : Prop :=
  ∀ s t : State, s.resetPort = none → step s = .next t →
    t.busLog = s.busLog ∨
      ∃ tr, t.busLog = s.busLog ++ [tr] ∧ legalTransaction s tr ∧ t.phase.onBus = true ∧
        (s.phase = .idle ∨ (s.phase.onBus = true ∧ s.busIn ≠ [] ∧ t.busIn = s.busIn.tail))

/-- Configuration and geometry never change after construction, and the SIZE output reads WIDTH and HEIGHT
in every phase (R21, R22, R33, R147). -/
def Obligations.ConfigurationNeverChanges : Prop :=
  (∀ s t : State, s.resetPort = none → step s = .next t → sameConfig s t) ∧
  (∀ s : State, s.size = (s.cfgWidth, s.cfgHeight))

/-- LAST_ERR changes only in a flush: when it starts, or when one of its transactions is answered (R26). -/
def Obligations.OnlyFlushWritesLastErr : Prop :=
  ∀ s t : State, s.resetPort = none → step s = .next t →
    t.lastErrValid ≠ s.lastErrValid ∨ t.lastErr ≠ s.lastErr →
    s.phase.inFlush = true ∨
      (s.phase = .idle ∧ t.phase = .flCol ∧ t.lastErrValid = false ∧ t.lastErr = s.lastErr ∧
        ∃ r rest, s.hostReqs = r :: rest ∧ r.op = 4)

/-- The counters move only as R24 says: Y and X in the chunk loop of a flush, STEP in INIT. -/
def Obligations.CountersMoveInTheirLoops : Prop :=
  ∀ s t : State, s.resetPort = none → step s = .next t →
    (t.y ≠ s.y ∨ t.x ≠ s.x → s.phase = .flRow ∨ s.phase = .flChunk) ∧
    (t.initStep ≠ s.initStep → s.phase = .init ∨ (s.phase = .idle ∧ t.phase = .init))

/-- A step gives at most one response, and it leaves the block idle with the request latch empty; the
response to a SET_PIXEL, a DRAW_PIXEL and an INIT is OK (R32). -/
def Obligations.ResponsesCompleteTheRequest : Prop :=
  ∀ s t : State, s.resetPort = none → step s = .next t →
    t.respLog = s.respLog ∨
      ∃ r, t.respLog = s.respLog ++ [r] ∧ t.phase = .idle ∧ t.req = none ∧
        (s.phase = .idle ∨ s.phase = .init → r = .ok)
end

