-- ==== Sys2Proof/Laws/Encoder.lean ====
section
/-! SUPPORT. The tag table and the command encoder: codes, lengths and frames. -/

namespace Sys2Proof

@[simp] theorem Tag.ofCode_code (t : Tag) : Tag.ofCode t.code = some t := by cases t <;> rfl

theorem Tag.code_lt (t : Tag) : t.code.toNat < 25 := by cases t <;> decide

/-- A code selects a tag exactly when it is that tag's code. -/
theorem Tag.ofCode_eq_some {c : BitVec 5} {t : Tag} (h : Tag.ofCode c = some t) : t.code = c := by
  have key : ∀ c : BitVec 5, ∀ u, Tag.ofCode c = some u → u.code = c := by decide +revert
  exact key c t h

/-- The reserved codes are 25..31 (30_encoding R91). -/
theorem Tag.ofCode_eq_none_iff (c : BitVec 5) : Tag.ofCode c = none ↔ 25 ≤ c.toNat := by
  unfold Tag.ofCode
  rw [List.getElem?_eq_none_iff]
  rfl

theorem Tag.ofCode_of_lt {c : BitVec 5} (h : c.toNat < 25) : ∃ t, Tag.ofCode c = some t := by
  cases hc : Tag.ofCode c with
  | some t => exact ⟨t, rfl⟩
  | none => exact absurd ((Tag.ofCode_eq_none_iff c).1 hc) (by omega)

/-- Every tag stands in the list of tags. -/
theorem Tag.mem_all (t : Tag) : t ∈ Tag.all := by cases t <;> decide

@[simp] theorem frame_length (p : Params) (t : Tag) (a b : Byte) :
    (encodeCommand p t a b).frame.length = t.arity.frameLen := by
  unfold encodeCommand
  cases t.arity <;> rfl

@[simp] theorem frame_head (p : Params) (t : Tag) (a b : Byte) :
    (encodeCommand p t a b).frame.head? = some p.rev.ctrlCmd := by
  unfold encodeCommand
  cases t.arity <;> rfl

theorem frameLen_bounds (c : ArityClass) : 2 ≤ c.frameLen ∧ c.frameLen ≤ 4 := by
  cases c <;> decide

/-- A frame holds 2, 3 or 4 bytes (30_encoding R88). -/
theorem frame_length_bounds (p : Params) (t : Tag) (a b : Byte) :
    2 ≤ (encodeCommand p t a b).frame.length ∧ (encodeCommand p t a b).frame.length ≤ 4 := by
  rw [frame_length]
  exact frameLen_bounds _

@[simp] theorem data8_length (d : Data8) : d.toList.length = 8 := rfl

end Sys2Proof
end

