-- ==== Sys2Proof/Laws/Memory.lean ====
section
/-! SUPPORT. Framebuffer lists: read after write, and every operation keeps the canonical form. -/

namespace Sys2Proof.Machine

theorem Memory.wfFrom_mono {lo lo' : Nat} (m : Memory) (h : Memory.wfFrom lo m = true) (hl : lo' ≤ lo) :
    Memory.wfFrom lo' m = true := by
  cases m with
  | nil => rfl
  | cons c rest =>
    simp only [Memory.wfFrom, Bool.and_eq_true, decide_eq_true_eq] at h ⊢
    exact ⟨⟨by omega, h.1.2⟩, h.2⟩

/-- A list in canonical form from `lo` on lists nothing below `lo`. -/
theorem Memory.read_below {lo a : Nat} (m : Memory) (h : Memory.wfFrom lo m = true) (ha : a < lo) :
    Memory.read m a = Memory.unlisted := by
  induction m generalizing lo with
  | nil => rfl
  | cons c rest ih =>
    simp only [Memory.wfFrom, Bool.and_eq_true, decide_eq_true_eq] at h
    have hne : a ≠ c.1 := by omega
    simp only [Memory.read, if_neg hne]
    exact ih h.2 (by omega)

/-- A write keeps the canonical form from any bound at or below its address. -/
theorem Memory.wfFrom_write {lo a : Nat} (m : Memory) (v : Byte) (h : Memory.wfFrom lo m = true)
    (ha : lo ≤ a) : Memory.wfFrom lo (Memory.write m a v) = true := by
  induction m generalizing lo with
  | nil => by_cases hv : v = Memory.unlisted <;> simp [Memory.write, Memory.wfFrom, hv, ha]
  | cons c rest ih =>
    obtain ⟨b, w⟩ := c
    simp only [Memory.wfFrom, Bool.and_eq_true, decide_eq_true_eq] at h
    obtain ⟨⟨hb, hw⟩, hr⟩ := h
    simp only [Memory.write]
    split_ifs with h1 h2 h3 h4
    · simp [Memory.wfFrom, hb, hw, hr]
    · simp [Memory.wfFrom, ha, h2, hw, hr]; omega
    · exact Memory.wfFrom_mono rest hr (by omega)
    · subst h3; simp [Memory.wfFrom, hb, h4, hr]
    · simp [Memory.wfFrom, hb, hw, ih hr (by omega)]

theorem Memory.wf_write (m : Memory) (a : Nat) (v : Byte) (h : m.wf = true) : (m.write a v).wf = true :=
  Memory.wfFrom_write m v h (Nat.zero_le a)

/-- A read after a write to the same index gives the value written. -/
theorem Memory.read_write_same (m : Memory) (a : Nat) (v : Byte) (h : m.wf = true) :
    Memory.read (m.write a v) a = v := by
  unfold Memory.wf at h
  generalize 0 = lo at h
  induction m generalizing lo with
  | nil => by_cases hv : v = Memory.unlisted <;> simp [Memory.write, Memory.read, hv]
  | cons c rest ih =>
    obtain ⟨b, w⟩ := c
    simp only [Memory.wfFrom, Bool.and_eq_true, decide_eq_true_eq] at h
    obtain ⟨⟨hb, hw⟩, hr⟩ := h
    simp only [Memory.write]
    split_ifs with h1 h2 h3 h4
    · rw [Memory.read, if_neg (by omega), h2]; exact Memory.read_below rest hr (by omega)
    · simp [Memory.read]
    · subst h3; rw [h4]; exact Memory.read_below rest hr (by omega)
    · simp [Memory.read]
    · rw [Memory.read, if_neg h3]; exact ih _ hr

/-- A write leaves every other index as it was. -/
theorem Memory.read_write_other (m : Memory) (a b : Nat) (v : Byte) (hne : b ≠ a) (h : m.wf = true) :
    Memory.read (m.write a v) b = m.read b := by
  unfold Memory.wf at h
  generalize 0 = lo at h
  induction m generalizing lo with
  | nil => by_cases hv : v = Memory.unlisted <;> simp [Memory.write, Memory.read, hv, hne]
  | cons c rest ih =>
    obtain ⟨d, w⟩ := c
    simp only [Memory.wfFrom, Bool.and_eq_true, decide_eq_true_eq] at h
    obtain ⟨⟨hd, hw⟩, hr⟩ := h
    simp only [Memory.write]
    split_ifs with h1 h2 h3 h4
    · rfl
    · rw [Memory.read, if_neg hne]
    · subst h3; rw [Memory.read, if_neg hne]
    · subst h3; simp [Memory.read, hne]
    · simp only [Memory.read, ih _ hr]

theorem Memory.below_write (m : Memory) (n a : Nat) (v : Byte) (h : m.below n = true) (ha : a < n) :
    (m.write a v).below n = true := by
  unfold Memory.below at h ⊢
  induction m with
  | nil => by_cases hv : v = Memory.unlisted <;> simp [Memory.write, hv, ha]
  | cons c rest ih =>
    obtain ⟨b, w⟩ := c
    simp only [List.all_cons, Bool.and_eq_true, decide_eq_true_eq] at h
    simp only [Memory.write]
    split_ifs <;> try simp only [List.all_cons, Bool.and_eq_true, decide_eq_true_eq]
    · exact h
    · exact ⟨ha, h⟩
    · exact h.2
    · exact ⟨ha, h.2⟩
    · exact ⟨h.1, ih h.2⟩

/-- Two lists in canonical form that read alike everywhere are the same list. -/
theorem Memory.ext_of_read {lo : Nat} (m k : Memory) (hm : Memory.wfFrom lo m = true)
    (hk : Memory.wfFrom lo k = true) (h : ∀ a, m.read a = k.read a) : m = k := by
  induction m generalizing k lo with
  | nil =>
    cases k with
    | nil => rfl
    | cons c rest =>
      simp only [Memory.wfFrom, Bool.and_eq_true, decide_eq_true_eq] at hk
      have := h c.1
      simp only [Memory.read, if_true] at this
      exact absurd this.symm hk.1.2
  | cons c rest ih =>
    obtain ⟨a, v⟩ := c
    cases k with
    | nil =>
      simp only [Memory.wfFrom, Bool.and_eq_true, decide_eq_true_eq] at hm
      have := h a
      simp only [Memory.read, if_true] at this
      exact absurd this hm.1.2
    | cons d rest' =>
      obtain ⟨b, w⟩ := d
      simp only [Memory.wfFrom, Bool.and_eq_true, decide_eq_true_eq] at hm hk
      have hab : a = b := by
        by_contra hne
        rcases Nat.lt_or_gt_of_ne hne with hlt | hgt
        · have := h a
          simp only [Memory.read, if_true, if_neg hne] at this
          rw [Memory.read_below rest' hk.2 (by omega)] at this
          exact hm.1.2 this
        · have := h b
          simp only [Memory.read, if_true, if_neg (Ne.symm hne)] at this
          rw [Memory.read_below rest hm.2 (by omega)] at this
          exact hk.1.2 this.symm
      subst hab
      have hvw : v = w := by simpa [Memory.read] using h a
      subst hvw
      congr 1
      refine ih rest' hm.2 hk.2 fun x => ?_
      by_cases hx : x = a
      · subst hx
        rw [Memory.read_below rest hm.2 (by omega), Memory.read_below rest' hk.2 (by omega)]
      · simpa [Memory.read, hx] using h x

theorem Memory.wfFrom_ofBytes (i : Nat) (bs : List Byte) : Memory.wfFrom i (Memory.ofBytes i bs) = true := by
  induction bs generalizing i with
  | nil => rfl
  | cons b bs ih =>
    simp only [Memory.ofBytes]
    split_ifs with h
    · exact Memory.wfFrom_mono _ (ih (i + 1)) (by omega)
    · simp [Memory.wfFrom, h, ih (i + 1)]

theorem Memory.wf_ofBytes (bs : List Byte) : (Memory.ofBytes 0 bs).wf = true := Memory.wfFrom_ofBytes 0 bs

theorem Memory.below_ofBytes (n i : Nat) (bs : List Byte) (h : i + bs.length ≤ n) :
    (Memory.ofBytes i bs).below n = true := by
  induction bs generalizing i with
  | nil => rfl
  | cons b bs ih =>
    have hl : i + 1 + bs.length ≤ n := by simpa [Nat.add_assoc, Nat.add_comm 1] using h
    have := ih (i + 1) hl
    simp only [Memory.ofBytes]
    unfold Memory.below at this ⊢
    split_ifs
    · exact this
    · simp only [List.all_cons, this, Bool.and_true, decide_eq_true_eq]; omega

/-- The cells of a byte list read as that list, and as unlisted outside it. -/
theorem Memory.read_ofBytes (i : Nat) (bs : List Byte) (k : Nat) :
    Memory.read (Memory.ofBytes i bs) (i + k) = bs.getD k Memory.unlisted := by
  induction bs generalizing i k with
  | nil => simp [Memory.ofBytes, Memory.read]
  | cons b bs ih =>
    cases k with
    | zero =>
      simp only [Memory.ofBytes]
      split_ifs with h
      · rw [Memory.read_below _ (Memory.wfFrom_ofBytes (i + 1) bs) (by omega)]; simp [h]
      · simp [Memory.read]
    | succ k =>
      have e : i + (k + 1) = i + 1 + k := by omega
      have hne : i + (k + 1) ≠ i := by omega
      simp only [Memory.ofBytes, List.getD_cons_succ]
      split_ifs with h
      · rw [e]; exact ih (i + 1) k
      · rw [Memory.read, if_neg hne, e]; exact ih (i + 1) k

theorem reset_memory_wf : State.reset.fb.wf = true := rfl

end Sys2Proof.Machine
end

