-- ==== Sys2Proof/Laws/State.lean ====
section
/-! SUPPORT. One lemma per field per update of State, true by rfl: no later proof unfolds a record update. -/

namespace Sys2Proof.Machine

@[simp] theorem recordErr_ok (s : State) : recordErr .ok s = s := rfl

@[simp] theorem startTransaction_cfgWidth (ph : Phase) (bs : List Byte) (s : State) : (startTransaction ph bs s).cfgWidth = s.cfgWidth := rfl
@[simp] theorem startTransaction_cfgHeight (ph : Phase) (bs : List Byte) (s : State) : (startTransaction ph bs s).cfgHeight = s.cfgHeight := rfl
@[simp] theorem startTransaction_cfgAddr (ph : Phase) (bs : List Byte) (s : State) : (startTransaction ph bs s).cfgAddr = s.cfgAddr := rfl
@[simp] theorem startTransaction_params (ph : Phase) (bs : List Byte) (s : State) : (startTransaction ph bs s).params = s.params := rfl
@[simp] theorem startTransaction_wmax (ph : Phase) (bs : List Byte) (s : State) : (startTransaction ph bs s).wmax = s.wmax := rfl
@[simp] theorem startTransaction_hmax (ph : Phase) (bs : List Byte) (s : State) : (startTransaction ph bs s).hmax = s.hmax := rfl
@[simp] theorem startTransaction_halfwidth (ph : Phase) (bs : List Byte) (s : State) : (startTransaction ph bs s).halfwidth = s.halfwidth := rfl
@[simp] theorem startTransaction_fb (ph : Phase) (bs : List Byte) (s : State) : (startTransaction ph bs s).fb = s.fb := rfl
@[simp] theorem startTransaction_phase (ph : Phase) (bs : List Byte) (s : State) : (startTransaction ph bs s).phase = ph := rfl
@[simp] theorem startTransaction_y (ph : Phase) (bs : List Byte) (s : State) : (startTransaction ph bs s).y = s.y := rfl
@[simp] theorem startTransaction_x (ph : Phase) (bs : List Byte) (s : State) : (startTransaction ph bs s).x = s.x := rfl
@[simp] theorem startTransaction_initStep (ph : Phase) (bs : List Byte) (s : State) : (startTransaction ph bs s).initStep = s.initStep := rfl
@[simp] theorem startTransaction_lastErrValid (ph : Phase) (bs : List Byte) (s : State) : (startTransaction ph bs s).lastErrValid = s.lastErrValid := rfl
@[simp] theorem startTransaction_lastErr (ph : Phase) (bs : List Byte) (s : State) : (startTransaction ph bs s).lastErr = s.lastErr := rfl
@[simp] theorem startTransaction_faulted (ph : Phase) (bs : List Byte) (s : State) : (startTransaction ph bs s).faulted = s.faulted := rfl
@[simp] theorem startTransaction_faultCause (ph : Phase) (bs : List Byte) (s : State) : (startTransaction ph bs s).faultCause = s.faultCause := rfl
@[simp] theorem startTransaction_req (ph : Phase) (bs : List Byte) (s : State) : (startTransaction ph bs s).req = s.req := rfl
@[simp] theorem startTransaction_txbuf (ph : Phase) (bs : List Byte) (s : State) : (startTransaction ph bs s).txbuf = bs ++ s.txbuf.drop bs.length := rfl
@[simp] theorem startTransaction_txlen (ph : Phase) (bs : List Byte) (s : State) : (startTransaction ph bs s).txlen = BitVec.ofNat 4 bs.length := rfl
@[simp] theorem startTransaction_hostReqs (ph : Phase) (bs : List Byte) (s : State) : (startTransaction ph bs s).hostReqs = s.hostReqs := rfl
@[simp] theorem startTransaction_busIn (ph : Phase) (bs : List Byte) (s : State) : (startTransaction ph bs s).busIn = s.busIn := rfl
@[simp] theorem startTransaction_encPort (ph : Phase) (bs : List Byte) (s : State) : (startTransaction ph bs s).encPort = s.encPort := rfl
@[simp] theorem startTransaction_encOut (ph : Phase) (bs : List Byte) (s : State) : (startTransaction ph bs s).encOut = s.encOut := rfl
@[simp] theorem startTransaction_resetPort (ph : Phase) (bs : List Byte) (s : State) : (startTransaction ph bs s).resetPort = s.resetPort := rfl
@[simp] theorem startTransaction_busLog (ph : Phase) (bs : List Byte) (s : State) : (startTransaction ph bs s).busLog = s.busLog ++ [⟨s.cfgAddr, bs⟩] := rfl
@[simp] theorem startTransaction_respLog (ph : Phase) (bs : List Byte) (s : State) : (startTransaction ph bs s).respLog = s.respLog := rfl
@[simp] theorem startTransaction_stride (ph : Phase) (bs : List Byte) (s : State) : (startTransaction ph bs s).stride = s.stride := rfl
@[simp] theorem startTransaction_fbLen (ph : Phase) (bs : List Byte) (s : State) : (startTransaction ph bs s).fbLen = s.fbLen := rfl
@[simp] theorem startTransaction_nData (ph : Phase) (bs : List Byte) (s : State) : (startTransaction ph bs s).nData = s.nData := rfl

@[simp] theorem startCommand_cfgWidth (ph : Phase) (t : Tag) (a b : Byte) (s : State) : (startCommand ph t a b s).cfgWidth = s.cfgWidth := rfl
@[simp] theorem startCommand_cfgHeight (ph : Phase) (t : Tag) (a b : Byte) (s : State) : (startCommand ph t a b s).cfgHeight = s.cfgHeight := rfl
@[simp] theorem startCommand_cfgAddr (ph : Phase) (t : Tag) (a b : Byte) (s : State) : (startCommand ph t a b s).cfgAddr = s.cfgAddr := rfl
@[simp] theorem startCommand_params (ph : Phase) (t : Tag) (a b : Byte) (s : State) : (startCommand ph t a b s).params = s.params := rfl
@[simp] theorem startCommand_wmax (ph : Phase) (t : Tag) (a b : Byte) (s : State) : (startCommand ph t a b s).wmax = s.wmax := rfl
@[simp] theorem startCommand_hmax (ph : Phase) (t : Tag) (a b : Byte) (s : State) : (startCommand ph t a b s).hmax = s.hmax := rfl
@[simp] theorem startCommand_halfwidth (ph : Phase) (t : Tag) (a b : Byte) (s : State) : (startCommand ph t a b s).halfwidth = s.halfwidth := rfl
@[simp] theorem startCommand_fb (ph : Phase) (t : Tag) (a b : Byte) (s : State) : (startCommand ph t a b s).fb = s.fb := rfl
@[simp] theorem startCommand_phase (ph : Phase) (t : Tag) (a b : Byte) (s : State) : (startCommand ph t a b s).phase = ph := rfl
@[simp] theorem startCommand_y (ph : Phase) (t : Tag) (a b : Byte) (s : State) : (startCommand ph t a b s).y = s.y := rfl
@[simp] theorem startCommand_x (ph : Phase) (t : Tag) (a b : Byte) (s : State) : (startCommand ph t a b s).x = s.x := rfl
@[simp] theorem startCommand_initStep (ph : Phase) (t : Tag) (a b : Byte) (s : State) : (startCommand ph t a b s).initStep = s.initStep := rfl
@[simp] theorem startCommand_lastErrValid (ph : Phase) (t : Tag) (a b : Byte) (s : State) : (startCommand ph t a b s).lastErrValid = s.lastErrValid := rfl
@[simp] theorem startCommand_lastErr (ph : Phase) (t : Tag) (a b : Byte) (s : State) : (startCommand ph t a b s).lastErr = s.lastErr := rfl
@[simp] theorem startCommand_faulted (ph : Phase) (t : Tag) (a b : Byte) (s : State) : (startCommand ph t a b s).faulted = s.faulted := rfl
@[simp] theorem startCommand_faultCause (ph : Phase) (t : Tag) (a b : Byte) (s : State) : (startCommand ph t a b s).faultCause = s.faultCause := rfl
@[simp] theorem startCommand_req (ph : Phase) (t : Tag) (a b : Byte) (s : State) : (startCommand ph t a b s).req = s.req := rfl
@[simp] theorem startCommand_txbuf (ph : Phase) (t : Tag) (a b : Byte) (s : State) : (startCommand ph t a b s).txbuf = (encodeCommand s.params t a b).frame ++ s.txbuf.drop (encodeCommand s.params t a b).frame.length := rfl
@[simp] theorem startCommand_txlen (ph : Phase) (t : Tag) (a b : Byte) (s : State) : (startCommand ph t a b s).txlen = BitVec.ofNat 4 (encodeCommand s.params t a b).frame.length := rfl
@[simp] theorem startCommand_hostReqs (ph : Phase) (t : Tag) (a b : Byte) (s : State) : (startCommand ph t a b s).hostReqs = s.hostReqs := rfl
@[simp] theorem startCommand_busIn (ph : Phase) (t : Tag) (a b : Byte) (s : State) : (startCommand ph t a b s).busIn = s.busIn := rfl
@[simp] theorem startCommand_encPort (ph : Phase) (t : Tag) (a b : Byte) (s : State) : (startCommand ph t a b s).encPort = s.encPort := rfl
@[simp] theorem startCommand_encOut (ph : Phase) (t : Tag) (a b : Byte) (s : State) : (startCommand ph t a b s).encOut = s.encOut := rfl
@[simp] theorem startCommand_resetPort (ph : Phase) (t : Tag) (a b : Byte) (s : State) : (startCommand ph t a b s).resetPort = s.resetPort := rfl
@[simp] theorem startCommand_busLog (ph : Phase) (t : Tag) (a b : Byte) (s : State) : (startCommand ph t a b s).busLog = s.busLog ++ [⟨s.cfgAddr, (encodeCommand s.params t a b).frame⟩] := rfl
@[simp] theorem startCommand_respLog (ph : Phase) (t : Tag) (a b : Byte) (s : State) : (startCommand ph t a b s).respLog = s.respLog := rfl
@[simp] theorem startCommand_stride (ph : Phase) (t : Tag) (a b : Byte) (s : State) : (startCommand ph t a b s).stride = s.stride := rfl
@[simp] theorem startCommand_fbLen (ph : Phase) (t : Tag) (a b : Byte) (s : State) : (startCommand ph t a b s).fbLen = s.fbLen := rfl
@[simp] theorem startCommand_nData (ph : Phase) (t : Tag) (a b : Byte) (s : State) : (startCommand ph t a b s).nData = s.nData := rfl

@[simp] theorem respond_cfgWidth (r : Result) (s : State) : (respond r s).cfgWidth = s.cfgWidth := rfl
@[simp] theorem respond_cfgHeight (r : Result) (s : State) : (respond r s).cfgHeight = s.cfgHeight := rfl
@[simp] theorem respond_cfgAddr (r : Result) (s : State) : (respond r s).cfgAddr = s.cfgAddr := rfl
@[simp] theorem respond_params (r : Result) (s : State) : (respond r s).params = s.params := rfl
@[simp] theorem respond_wmax (r : Result) (s : State) : (respond r s).wmax = s.wmax := rfl
@[simp] theorem respond_hmax (r : Result) (s : State) : (respond r s).hmax = s.hmax := rfl
@[simp] theorem respond_halfwidth (r : Result) (s : State) : (respond r s).halfwidth = s.halfwidth := rfl
@[simp] theorem respond_fb (r : Result) (s : State) : (respond r s).fb = s.fb := rfl
@[simp] theorem respond_phase (r : Result) (s : State) : (respond r s).phase = Phase.idle := rfl
@[simp] theorem respond_y (r : Result) (s : State) : (respond r s).y = s.y := rfl
@[simp] theorem respond_x (r : Result) (s : State) : (respond r s).x = s.x := rfl
@[simp] theorem respond_initStep (r : Result) (s : State) : (respond r s).initStep = s.initStep := rfl
@[simp] theorem respond_lastErrValid (r : Result) (s : State) : (respond r s).lastErrValid = s.lastErrValid := rfl
@[simp] theorem respond_lastErr (r : Result) (s : State) : (respond r s).lastErr = s.lastErr := rfl
@[simp] theorem respond_faulted (r : Result) (s : State) : (respond r s).faulted = s.faulted := rfl
@[simp] theorem respond_faultCause (r : Result) (s : State) : (respond r s).faultCause = s.faultCause := rfl
@[simp] theorem respond_req (r : Result) (s : State) : (respond r s).req = none := rfl
@[simp] theorem respond_txbuf (r : Result) (s : State) : (respond r s).txbuf = s.txbuf := rfl
@[simp] theorem respond_txlen (r : Result) (s : State) : (respond r s).txlen = s.txlen := rfl
@[simp] theorem respond_hostReqs (r : Result) (s : State) : (respond r s).hostReqs = s.hostReqs := rfl
@[simp] theorem respond_busIn (r : Result) (s : State) : (respond r s).busIn = s.busIn := rfl
@[simp] theorem respond_encPort (r : Result) (s : State) : (respond r s).encPort = s.encPort := rfl
@[simp] theorem respond_encOut (r : Result) (s : State) : (respond r s).encOut = s.encOut := rfl
@[simp] theorem respond_resetPort (r : Result) (s : State) : (respond r s).resetPort = s.resetPort := rfl
@[simp] theorem respond_busLog (r : Result) (s : State) : (respond r s).busLog = s.busLog := rfl
@[simp] theorem respond_respLog (r : Result) (s : State) : (respond r s).respLog = s.respLog ++ [r] := rfl
@[simp] theorem respond_stride (r : Result) (s : State) : (respond r s).stride = s.stride := rfl
@[simp] theorem respond_fbLen (r : Result) (s : State) : (respond r s).fbLen = s.fbLen := rfl
@[simp] theorem respond_nData (r : Result) (s : State) : (respond r s).nData = s.nData := rfl

@[simp] theorem driveEncoder_cfgWidth (o : EncOut) (s : State) : (driveEncoder o s).cfgWidth = s.cfgWidth := rfl
@[simp] theorem driveEncoder_cfgHeight (o : EncOut) (s : State) : (driveEncoder o s).cfgHeight = s.cfgHeight := rfl
@[simp] theorem driveEncoder_cfgAddr (o : EncOut) (s : State) : (driveEncoder o s).cfgAddr = s.cfgAddr := rfl
@[simp] theorem driveEncoder_params (o : EncOut) (s : State) : (driveEncoder o s).params = s.params := rfl
@[simp] theorem driveEncoder_wmax (o : EncOut) (s : State) : (driveEncoder o s).wmax = s.wmax := rfl
@[simp] theorem driveEncoder_hmax (o : EncOut) (s : State) : (driveEncoder o s).hmax = s.hmax := rfl
@[simp] theorem driveEncoder_halfwidth (o : EncOut) (s : State) : (driveEncoder o s).halfwidth = s.halfwidth := rfl
@[simp] theorem driveEncoder_fb (o : EncOut) (s : State) : (driveEncoder o s).fb = s.fb := rfl
@[simp] theorem driveEncoder_phase (o : EncOut) (s : State) : (driveEncoder o s).phase = s.phase := rfl
@[simp] theorem driveEncoder_y (o : EncOut) (s : State) : (driveEncoder o s).y = s.y := rfl
@[simp] theorem driveEncoder_x (o : EncOut) (s : State) : (driveEncoder o s).x = s.x := rfl
@[simp] theorem driveEncoder_initStep (o : EncOut) (s : State) : (driveEncoder o s).initStep = s.initStep := rfl
@[simp] theorem driveEncoder_lastErrValid (o : EncOut) (s : State) : (driveEncoder o s).lastErrValid = s.lastErrValid := rfl
@[simp] theorem driveEncoder_lastErr (o : EncOut) (s : State) : (driveEncoder o s).lastErr = s.lastErr := rfl
@[simp] theorem driveEncoder_faulted (o : EncOut) (s : State) : (driveEncoder o s).faulted = s.faulted := rfl
@[simp] theorem driveEncoder_faultCause (o : EncOut) (s : State) : (driveEncoder o s).faultCause = s.faultCause := rfl
@[simp] theorem driveEncoder_req (o : EncOut) (s : State) : (driveEncoder o s).req = s.req := rfl
@[simp] theorem driveEncoder_txbuf (o : EncOut) (s : State) : (driveEncoder o s).txbuf = s.txbuf := rfl
@[simp] theorem driveEncoder_txlen (o : EncOut) (s : State) : (driveEncoder o s).txlen = s.txlen := rfl
@[simp] theorem driveEncoder_hostReqs (o : EncOut) (s : State) : (driveEncoder o s).hostReqs = s.hostReqs := rfl
@[simp] theorem driveEncoder_busIn (o : EncOut) (s : State) : (driveEncoder o s).busIn = s.busIn := rfl
@[simp] theorem driveEncoder_encPort (o : EncOut) (s : State) : (driveEncoder o s).encPort = s.encPort := rfl
@[simp] theorem driveEncoder_encOut (o : EncOut) (s : State) : (driveEncoder o s).encOut = o := rfl
@[simp] theorem driveEncoder_resetPort (o : EncOut) (s : State) : (driveEncoder o s).resetPort = s.resetPort := rfl
@[simp] theorem driveEncoder_busLog (o : EncOut) (s : State) : (driveEncoder o s).busLog = s.busLog := rfl
@[simp] theorem driveEncoder_respLog (o : EncOut) (s : State) : (driveEncoder o s).respLog = s.respLog := rfl
@[simp] theorem driveEncoder_stride (o : EncOut) (s : State) : (driveEncoder o s).stride = s.stride := rfl
@[simp] theorem driveEncoder_fbLen (o : EncOut) (s : State) : (driveEncoder o s).fbLen = s.fbLen := rfl
@[simp] theorem driveEncoder_nData (o : EncOut) (s : State) : (driveEncoder o s).nData = s.nData := rfl

@[simp] theorem raiseFault_cfgWidth (c : FaultCause) (s : State) : (raiseFault c s).cfgWidth = s.cfgWidth := rfl
@[simp] theorem raiseFault_cfgHeight (c : FaultCause) (s : State) : (raiseFault c s).cfgHeight = s.cfgHeight := rfl
@[simp] theorem raiseFault_cfgAddr (c : FaultCause) (s : State) : (raiseFault c s).cfgAddr = s.cfgAddr := rfl
@[simp] theorem raiseFault_params (c : FaultCause) (s : State) : (raiseFault c s).params = s.params := rfl
@[simp] theorem raiseFault_wmax (c : FaultCause) (s : State) : (raiseFault c s).wmax = s.wmax := rfl
@[simp] theorem raiseFault_hmax (c : FaultCause) (s : State) : (raiseFault c s).hmax = s.hmax := rfl
@[simp] theorem raiseFault_halfwidth (c : FaultCause) (s : State) : (raiseFault c s).halfwidth = s.halfwidth := rfl
@[simp] theorem raiseFault_fb (c : FaultCause) (s : State) : (raiseFault c s).fb = s.fb := rfl
@[simp] theorem raiseFault_phase (c : FaultCause) (s : State) : (raiseFault c s).phase = Phase.fault := rfl
@[simp] theorem raiseFault_y (c : FaultCause) (s : State) : (raiseFault c s).y = s.y := rfl
@[simp] theorem raiseFault_x (c : FaultCause) (s : State) : (raiseFault c s).x = s.x := rfl
@[simp] theorem raiseFault_initStep (c : FaultCause) (s : State) : (raiseFault c s).initStep = s.initStep := rfl
@[simp] theorem raiseFault_lastErrValid (c : FaultCause) (s : State) : (raiseFault c s).lastErrValid = s.lastErrValid := rfl
@[simp] theorem raiseFault_lastErr (c : FaultCause) (s : State) : (raiseFault c s).lastErr = s.lastErr := rfl
@[simp] theorem raiseFault_faulted (c : FaultCause) (s : State) : (raiseFault c s).faulted = true := rfl
@[simp] theorem raiseFault_faultCause (c : FaultCause) (s : State) : (raiseFault c s).faultCause = c := rfl
@[simp] theorem raiseFault_req (c : FaultCause) (s : State) : (raiseFault c s).req = s.req := rfl
@[simp] theorem raiseFault_txbuf (c : FaultCause) (s : State) : (raiseFault c s).txbuf = s.txbuf := rfl
@[simp] theorem raiseFault_txlen (c : FaultCause) (s : State) : (raiseFault c s).txlen = s.txlen := rfl
@[simp] theorem raiseFault_hostReqs (c : FaultCause) (s : State) : (raiseFault c s).hostReqs = s.hostReqs := rfl
@[simp] theorem raiseFault_busIn (c : FaultCause) (s : State) : (raiseFault c s).busIn = s.busIn := rfl
@[simp] theorem raiseFault_encPort (c : FaultCause) (s : State) : (raiseFault c s).encPort = s.encPort := rfl
@[simp] theorem raiseFault_encOut (c : FaultCause) (s : State) : (raiseFault c s).encOut = s.encOut := rfl
@[simp] theorem raiseFault_resetPort (c : FaultCause) (s : State) : (raiseFault c s).resetPort = s.resetPort := rfl
@[simp] theorem raiseFault_busLog (c : FaultCause) (s : State) : (raiseFault c s).busLog = s.busLog := rfl
@[simp] theorem raiseFault_respLog (c : FaultCause) (s : State) : (raiseFault c s).respLog = s.respLog := rfl
@[simp] theorem raiseFault_stride (c : FaultCause) (s : State) : (raiseFault c s).stride = s.stride := rfl
@[simp] theorem raiseFault_fbLen (c : FaultCause) (s : State) : (raiseFault c s).fbLen = s.fbLen := rfl
@[simp] theorem raiseFault_nData (c : FaultCause) (s : State) : (raiseFault c s).nData = s.nData := rfl

@[simp] theorem clearErr_cfgWidth (s : State) : (clearErr s).cfgWidth = s.cfgWidth := rfl
@[simp] theorem clearErr_cfgHeight (s : State) : (clearErr s).cfgHeight = s.cfgHeight := rfl
@[simp] theorem clearErr_cfgAddr (s : State) : (clearErr s).cfgAddr = s.cfgAddr := rfl
@[simp] theorem clearErr_params (s : State) : (clearErr s).params = s.params := rfl
@[simp] theorem clearErr_wmax (s : State) : (clearErr s).wmax = s.wmax := rfl
@[simp] theorem clearErr_hmax (s : State) : (clearErr s).hmax = s.hmax := rfl
@[simp] theorem clearErr_halfwidth (s : State) : (clearErr s).halfwidth = s.halfwidth := rfl
@[simp] theorem clearErr_fb (s : State) : (clearErr s).fb = s.fb := rfl
@[simp] theorem clearErr_phase (s : State) : (clearErr s).phase = s.phase := rfl
@[simp] theorem clearErr_y (s : State) : (clearErr s).y = s.y := rfl
@[simp] theorem clearErr_x (s : State) : (clearErr s).x = s.x := rfl
@[simp] theorem clearErr_initStep (s : State) : (clearErr s).initStep = s.initStep := rfl
@[simp] theorem clearErr_lastErrValid (s : State) : (clearErr s).lastErrValid = false := rfl
@[simp] theorem clearErr_lastErr (s : State) : (clearErr s).lastErr = s.lastErr := rfl
@[simp] theorem clearErr_faulted (s : State) : (clearErr s).faulted = s.faulted := rfl
@[simp] theorem clearErr_faultCause (s : State) : (clearErr s).faultCause = s.faultCause := rfl
@[simp] theorem clearErr_req (s : State) : (clearErr s).req = s.req := rfl
@[simp] theorem clearErr_txbuf (s : State) : (clearErr s).txbuf = s.txbuf := rfl
@[simp] theorem clearErr_txlen (s : State) : (clearErr s).txlen = s.txlen := rfl
@[simp] theorem clearErr_hostReqs (s : State) : (clearErr s).hostReqs = s.hostReqs := rfl
@[simp] theorem clearErr_busIn (s : State) : (clearErr s).busIn = s.busIn := rfl
@[simp] theorem clearErr_encPort (s : State) : (clearErr s).encPort = s.encPort := rfl
@[simp] theorem clearErr_encOut (s : State) : (clearErr s).encOut = s.encOut := rfl
@[simp] theorem clearErr_resetPort (s : State) : (clearErr s).resetPort = s.resetPort := rfl
@[simp] theorem clearErr_busLog (s : State) : (clearErr s).busLog = s.busLog := rfl
@[simp] theorem clearErr_respLog (s : State) : (clearErr s).respLog = s.respLog := rfl
@[simp] theorem clearErr_stride (s : State) : (clearErr s).stride = s.stride := rfl
@[simp] theorem clearErr_fbLen (s : State) : (clearErr s).fbLen = s.fbLen := rfl
@[simp] theorem clearErr_nData (s : State) : (clearErr s).nData = s.nData := rfl

@[simp] theorem recordErr_err_lastErrValid (e : TransportError) (s : State) : (recordErr (.err e) s).lastErrValid = true := rfl
@[simp] theorem recordErr_err_lastErr (e : TransportError) (s : State) : (recordErr (.err e) s).lastErr = e := rfl

@[simp] theorem accept_query_cfgWidth (q : EncQuery) (s : State) : (accept (.query q) s).cfgWidth = s.cfgWidth := rfl
@[simp] theorem accept_query_cfgHeight (q : EncQuery) (s : State) : (accept (.query q) s).cfgHeight = s.cfgHeight := rfl
@[simp] theorem accept_query_cfgAddr (q : EncQuery) (s : State) : (accept (.query q) s).cfgAddr = s.cfgAddr := rfl
@[simp] theorem accept_query_params (q : EncQuery) (s : State) : (accept (.query q) s).params = s.params := rfl
@[simp] theorem accept_query_wmax (q : EncQuery) (s : State) : (accept (.query q) s).wmax = s.wmax := rfl
@[simp] theorem accept_query_hmax (q : EncQuery) (s : State) : (accept (.query q) s).hmax = s.hmax := rfl
@[simp] theorem accept_query_halfwidth (q : EncQuery) (s : State) : (accept (.query q) s).halfwidth = s.halfwidth := rfl
@[simp] theorem accept_query_fb (q : EncQuery) (s : State) : (accept (.query q) s).fb = s.fb := rfl
@[simp] theorem accept_query_phase (q : EncQuery) (s : State) : (accept (.query q) s).phase = s.phase := rfl
@[simp] theorem accept_query_y (q : EncQuery) (s : State) : (accept (.query q) s).y = s.y := rfl
@[simp] theorem accept_query_x (q : EncQuery) (s : State) : (accept (.query q) s).x = s.x := rfl
@[simp] theorem accept_query_initStep (q : EncQuery) (s : State) : (accept (.query q) s).initStep = s.initStep := rfl
@[simp] theorem accept_query_lastErrValid (q : EncQuery) (s : State) : (accept (.query q) s).lastErrValid = s.lastErrValid := rfl
@[simp] theorem accept_query_lastErr (q : EncQuery) (s : State) : (accept (.query q) s).lastErr = s.lastErr := rfl
@[simp] theorem accept_query_faulted (q : EncQuery) (s : State) : (accept (.query q) s).faulted = s.faulted := rfl
@[simp] theorem accept_query_faultCause (q : EncQuery) (s : State) : (accept (.query q) s).faultCause = s.faultCause := rfl
@[simp] theorem accept_query_req (q : EncQuery) (s : State) : (accept (.query q) s).req = s.req := rfl
@[simp] theorem accept_query_txbuf (q : EncQuery) (s : State) : (accept (.query q) s).txbuf = s.txbuf := rfl
@[simp] theorem accept_query_txlen (q : EncQuery) (s : State) : (accept (.query q) s).txlen = s.txlen := rfl
@[simp] theorem accept_query_hostReqs (q : EncQuery) (s : State) : (accept (.query q) s).hostReqs = s.hostReqs := rfl
@[simp] theorem accept_query_busIn (q : EncQuery) (s : State) : (accept (.query q) s).busIn = s.busIn := rfl
@[simp] theorem accept_query_encPort (q : EncQuery) (s : State) : (accept (.query q) s).encPort = none := rfl
@[simp] theorem accept_query_encOut (q : EncQuery) (s : State) : (accept (.query q) s).encOut = s.encOut := rfl
@[simp] theorem accept_query_resetPort (q : EncQuery) (s : State) : (accept (.query q) s).resetPort = s.resetPort := rfl
@[simp] theorem accept_query_busLog (q : EncQuery) (s : State) : (accept (.query q) s).busLog = s.busLog := rfl
@[simp] theorem accept_query_respLog (q : EncQuery) (s : State) : (accept (.query q) s).respLog = s.respLog := rfl
@[simp] theorem accept_query_stride (q : EncQuery) (s : State) : (accept (.query q) s).stride = s.stride := rfl
@[simp] theorem accept_query_fbLen (q : EncQuery) (s : State) : (accept (.query q) s).fbLen = s.fbLen := rfl
@[simp] theorem accept_query_nData (q : EncQuery) (s : State) : (accept (.query q) s).nData = s.nData := rfl

@[simp] theorem accept_request_cfgWidth (r : Request) (s : State) : (accept (.request r) s).cfgWidth = s.cfgWidth := rfl
@[simp] theorem accept_request_cfgHeight (r : Request) (s : State) : (accept (.request r) s).cfgHeight = s.cfgHeight := rfl
@[simp] theorem accept_request_cfgAddr (r : Request) (s : State) : (accept (.request r) s).cfgAddr = s.cfgAddr := rfl
@[simp] theorem accept_request_params (r : Request) (s : State) : (accept (.request r) s).params = s.params := rfl
@[simp] theorem accept_request_wmax (r : Request) (s : State) : (accept (.request r) s).wmax = s.wmax := rfl
@[simp] theorem accept_request_hmax (r : Request) (s : State) : (accept (.request r) s).hmax = s.hmax := rfl
@[simp] theorem accept_request_halfwidth (r : Request) (s : State) : (accept (.request r) s).halfwidth = s.halfwidth := rfl
@[simp] theorem accept_request_fb (r : Request) (s : State) : (accept (.request r) s).fb = s.fb := rfl
@[simp] theorem accept_request_phase (r : Request) (s : State) : (accept (.request r) s).phase = s.phase := rfl
@[simp] theorem accept_request_y (r : Request) (s : State) : (accept (.request r) s).y = s.y := rfl
@[simp] theorem accept_request_x (r : Request) (s : State) : (accept (.request r) s).x = s.x := rfl
@[simp] theorem accept_request_initStep (r : Request) (s : State) : (accept (.request r) s).initStep = s.initStep := rfl
@[simp] theorem accept_request_lastErrValid (r : Request) (s : State) : (accept (.request r) s).lastErrValid = s.lastErrValid := rfl
@[simp] theorem accept_request_lastErr (r : Request) (s : State) : (accept (.request r) s).lastErr = s.lastErr := rfl
@[simp] theorem accept_request_faulted (r : Request) (s : State) : (accept (.request r) s).faulted = s.faulted := rfl
@[simp] theorem accept_request_faultCause (r : Request) (s : State) : (accept (.request r) s).faultCause = s.faultCause := rfl
@[simp] theorem accept_request_req (r : Request) (s : State) : (accept (.request r) s).req = some r := rfl
@[simp] theorem accept_request_txbuf (r : Request) (s : State) : (accept (.request r) s).txbuf = s.txbuf := rfl
@[simp] theorem accept_request_txlen (r : Request) (s : State) : (accept (.request r) s).txlen = s.txlen := rfl
@[simp] theorem accept_request_hostReqs (r : Request) (s : State) : (accept (.request r) s).hostReqs = s.hostReqs.tail := rfl
@[simp] theorem accept_request_busIn (r : Request) (s : State) : (accept (.request r) s).busIn = s.busIn := rfl
@[simp] theorem accept_request_encPort (r : Request) (s : State) : (accept (.request r) s).encPort = s.encPort := rfl
@[simp] theorem accept_request_encOut (r : Request) (s : State) : (accept (.request r) s).encOut = s.encOut := rfl
@[simp] theorem accept_request_resetPort (r : Request) (s : State) : (accept (.request r) s).resetPort = s.resetPort := rfl
@[simp] theorem accept_request_busLog (r : Request) (s : State) : (accept (.request r) s).busLog = s.busLog := rfl
@[simp] theorem accept_request_respLog (r : Request) (s : State) : (accept (.request r) s).respLog = s.respLog := rfl
@[simp] theorem accept_request_stride (r : Request) (s : State) : (accept (.request r) s).stride = s.stride := rfl
@[simp] theorem accept_request_fbLen (r : Request) (s : State) : (accept (.request r) s).fbLen = s.fbLen := rfl
@[simp] theorem accept_request_nData (r : Request) (s : State) : (accept (.request r) s).nData = s.nData := rfl

@[simp] theorem recordErr_cfgWidth (r : Result) (s : State) : (recordErr r s).cfgWidth = s.cfgWidth := by cases r <;> rfl
@[simp] theorem recordErr_cfgHeight (r : Result) (s : State) : (recordErr r s).cfgHeight = s.cfgHeight := by cases r <;> rfl
@[simp] theorem recordErr_cfgAddr (r : Result) (s : State) : (recordErr r s).cfgAddr = s.cfgAddr := by cases r <;> rfl
@[simp] theorem recordErr_params (r : Result) (s : State) : (recordErr r s).params = s.params := by cases r <;> rfl
@[simp] theorem recordErr_wmax (r : Result) (s : State) : (recordErr r s).wmax = s.wmax := by cases r <;> rfl
@[simp] theorem recordErr_hmax (r : Result) (s : State) : (recordErr r s).hmax = s.hmax := by cases r <;> rfl
@[simp] theorem recordErr_halfwidth (r : Result) (s : State) : (recordErr r s).halfwidth = s.halfwidth := by cases r <;> rfl
@[simp] theorem recordErr_fb (r : Result) (s : State) : (recordErr r s).fb = s.fb := by cases r <;> rfl
@[simp] theorem recordErr_phase (r : Result) (s : State) : (recordErr r s).phase = s.phase := by cases r <;> rfl
@[simp] theorem recordErr_y (r : Result) (s : State) : (recordErr r s).y = s.y := by cases r <;> rfl
@[simp] theorem recordErr_x (r : Result) (s : State) : (recordErr r s).x = s.x := by cases r <;> rfl
@[simp] theorem recordErr_initStep (r : Result) (s : State) : (recordErr r s).initStep = s.initStep := by cases r <;> rfl
@[simp] theorem recordErr_faulted (r : Result) (s : State) : (recordErr r s).faulted = s.faulted := by cases r <;> rfl
@[simp] theorem recordErr_faultCause (r : Result) (s : State) : (recordErr r s).faultCause = s.faultCause := by cases r <;> rfl
@[simp] theorem recordErr_req (r : Result) (s : State) : (recordErr r s).req = s.req := by cases r <;> rfl
@[simp] theorem recordErr_txbuf (r : Result) (s : State) : (recordErr r s).txbuf = s.txbuf := by cases r <;> rfl
@[simp] theorem recordErr_txlen (r : Result) (s : State) : (recordErr r s).txlen = s.txlen := by cases r <;> rfl
@[simp] theorem recordErr_hostReqs (r : Result) (s : State) : (recordErr r s).hostReqs = s.hostReqs := by cases r <;> rfl
@[simp] theorem recordErr_busIn (r : Result) (s : State) : (recordErr r s).busIn = s.busIn := by cases r <;> rfl
@[simp] theorem recordErr_encPort (r : Result) (s : State) : (recordErr r s).encPort = s.encPort := by cases r <;> rfl
@[simp] theorem recordErr_encOut (r : Result) (s : State) : (recordErr r s).encOut = s.encOut := by cases r <;> rfl
@[simp] theorem recordErr_resetPort (r : Result) (s : State) : (recordErr r s).resetPort = s.resetPort := by cases r <;> rfl
@[simp] theorem recordErr_busLog (r : Result) (s : State) : (recordErr r s).busLog = s.busLog := by cases r <;> rfl
@[simp] theorem recordErr_respLog (r : Result) (s : State) : (recordErr r s).respLog = s.respLog := by cases r <;> rfl
@[simp] theorem recordErr_stride (r : Result) (s : State) : (recordErr r s).stride = s.stride := by cases r <;> rfl
@[simp] theorem recordErr_fbLen (r : Result) (s : State) : (recordErr r s).fbLen = s.fbLen := by cases r <;> rfl
@[simp] theorem recordErr_nData (r : Result) (s : State) : (recordErr r s).nData = s.nData := by cases r <;> rfl

@[simp] theorem advanceChunk_cfgWidth (s : State) : (advanceChunk s).cfgWidth = s.cfgWidth := by unfold advanceChunk; split <;> rfl
@[simp] theorem advanceChunk_cfgHeight (s : State) : (advanceChunk s).cfgHeight = s.cfgHeight := by unfold advanceChunk; split <;> rfl
@[simp] theorem advanceChunk_cfgAddr (s : State) : (advanceChunk s).cfgAddr = s.cfgAddr := by unfold advanceChunk; split <;> rfl
@[simp] theorem advanceChunk_params (s : State) : (advanceChunk s).params = s.params := by unfold advanceChunk; split <;> rfl
@[simp] theorem advanceChunk_wmax (s : State) : (advanceChunk s).wmax = s.wmax := by unfold advanceChunk; split <;> rfl
@[simp] theorem advanceChunk_hmax (s : State) : (advanceChunk s).hmax = s.hmax := by unfold advanceChunk; split <;> rfl
@[simp] theorem advanceChunk_halfwidth (s : State) : (advanceChunk s).halfwidth = s.halfwidth := by unfold advanceChunk; split <;> rfl
@[simp] theorem advanceChunk_fb (s : State) : (advanceChunk s).fb = s.fb := by unfold advanceChunk; split <;> rfl
@[simp] theorem advanceChunk_phase (s : State) : (advanceChunk s).phase = s.phase := by unfold advanceChunk; split <;> rfl
@[simp] theorem advanceChunk_initStep (s : State) : (advanceChunk s).initStep = s.initStep := by unfold advanceChunk; split <;> rfl
@[simp] theorem advanceChunk_lastErrValid (s : State) : (advanceChunk s).lastErrValid = s.lastErrValid := by unfold advanceChunk; split <;> rfl
@[simp] theorem advanceChunk_lastErr (s : State) : (advanceChunk s).lastErr = s.lastErr := by unfold advanceChunk; split <;> rfl
@[simp] theorem advanceChunk_faulted (s : State) : (advanceChunk s).faulted = s.faulted := by unfold advanceChunk; split <;> rfl
@[simp] theorem advanceChunk_faultCause (s : State) : (advanceChunk s).faultCause = s.faultCause := by unfold advanceChunk; split <;> rfl
@[simp] theorem advanceChunk_req (s : State) : (advanceChunk s).req = s.req := by unfold advanceChunk; split <;> rfl
@[simp] theorem advanceChunk_txbuf (s : State) : (advanceChunk s).txbuf = s.txbuf := by unfold advanceChunk; split <;> rfl
@[simp] theorem advanceChunk_txlen (s : State) : (advanceChunk s).txlen = s.txlen := by unfold advanceChunk; split <;> rfl
@[simp] theorem advanceChunk_hostReqs (s : State) : (advanceChunk s).hostReqs = s.hostReqs := by unfold advanceChunk; split <;> rfl
@[simp] theorem advanceChunk_busIn (s : State) : (advanceChunk s).busIn = s.busIn := by unfold advanceChunk; split <;> rfl
@[simp] theorem advanceChunk_encPort (s : State) : (advanceChunk s).encPort = s.encPort := by unfold advanceChunk; split <;> rfl
@[simp] theorem advanceChunk_encOut (s : State) : (advanceChunk s).encOut = s.encOut := by unfold advanceChunk; split <;> rfl
@[simp] theorem advanceChunk_resetPort (s : State) : (advanceChunk s).resetPort = s.resetPort := by unfold advanceChunk; split <;> rfl
@[simp] theorem advanceChunk_busLog (s : State) : (advanceChunk s).busLog = s.busLog := by unfold advanceChunk; split <;> rfl
@[simp] theorem advanceChunk_respLog (s : State) : (advanceChunk s).respLog = s.respLog := by unfold advanceChunk; split <;> rfl
@[simp] theorem advanceChunk_stride (s : State) : (advanceChunk s).stride = s.stride := by unfold advanceChunk; split <;> rfl
@[simp] theorem advanceChunk_fbLen (s : State) : (advanceChunk s).fbLen = s.fbLen := by unfold advanceChunk; split <;> rfl
@[simp] theorem advanceChunk_nData (s : State) : (advanceChunk s).nData = s.nData := by unfold advanceChunk; split <;> rfl

@[simp] theorem recordErr_flushResult_err (e : TransportError) (s : State) : flushResult (recordErr (.err e) s) = .err e := rfl
@[simp] theorem advanceChunk_flushResult (s : State) : flushResult (advanceChunk s) = flushResult s := by unfold flushResult; simp

end Sys2Proof.Machine
end

