-- ==== Sys2Proof/Laws/Ops.lean ====
section
/-! SUPPORT. Each shared operation, said once: what it does and what it can answer. -/

namespace Sys2Proof.Machine

/-! ### Geometry of a legal configuration -/

theorem ConfigInv.stride_toNat {s : State} (h : ConfigInv s) : s.stride.toNat = s.cfgWidth.toNat / 2 := by
  have h1 := h.halfwidth
  have h2 := h.widthMin
  have h3 := h.widthMax
  have h4 := h.widthEven
  unfold State.stride
  rw [BitVec.toNat_add]
  simp only [BitVec.ofNat_eq_ofNat, BitVec.toNat_ofNat]
  omega

theorem ConfigInv.stride_bounds {s : State} (h : ConfigInv s) : 1 ≤ s.stride.toNat ∧ s.stride.toNat ≤ 64 := by
  have := h.stride_toNat
  have := h.widthMin
  have := h.widthMax
  omega

theorem ConfigInv.stride_halfwidth {s : State} (h : ConfigInv s) : s.stride.toNat = s.halfwidth.toNat + 1 := by
  have := h.stride_toNat
  have := h.halfwidth
  have := h.widthMin
  have := h.widthEven
  omega

theorem ConfigInv.height_hmax {s : State} (h : ConfigInv s) : s.cfgHeight.toNat = s.hmax.toNat + 1 := by
  have := h.hmax
  have := h.heightMin
  omega

theorem ConfigInv.fbLen_le {s : State} (h : ConfigInv s) : s.fbLen ≤ 8192 := by
  unfold State.fbLen
  calc s.stride.toNat * s.cfgHeight.toNat ≤ 64 * 128 := Nat.mul_le_mul h.stride_bounds.2 h.heightMax
    _ = 8192 := rfl

/-- The 16-bit index of a byte-column and a row is exact where the column is below STRIDE plus 8. -/
theorem index_toNat {s : State} (h : ConfigInv s) (c y : Byte) (hc : c.toNat ≤ 71)
    (hy : y.toNat ≤ 127) :
    (c.setWidth 16 + y.setWidth 16 * s.stride.setWidth 16 : Index).toNat =
      c.toNat + y.toNat * s.stride.toNat := by
  have hb := h.stride_bounds.2
  have hm : y.toNat * s.stride.toNat ≤ 127 * 64 := Nat.mul_le_mul hy hb
  have h1 : (y.setWidth 16 : Index).toNat = y.toNat := by
    rw [BitVec.toNat_setWidth]; exact Nat.mod_eq_of_lt (by omega)
  have h2 : (s.stride.setWidth 16 : Index).toNat = s.stride.toNat := by
    rw [BitVec.toNat_setWidth]; exact Nat.mod_eq_of_lt (by omega)
  have h3 : (c.setWidth 16 : Index).toNat = c.toNat := by
    rw [BitVec.toNat_setWidth]; exact Nat.mod_eq_of_lt (by omega)
  rw [BitVec.toNat_add, BitVec.toNat_mul, h1, h2, h3]
  rw [Nat.mod_eq_of_lt (a := y.toNat * s.stride.toNat) (by omega)]
  exact Nat.mod_eq_of_lt (by omega)

theorem inRange_iff (s : State) (x y : Byte) :
    inRange s x y = true ↔ x.toNat ≤ s.wmax.toNat ∧ y.toNat ≤ s.hmax.toNat := by
  simp [inRange, BitVec.le_def]

/-- An in-range pixel's index, exact and below FBLEN (20_memory R52, 41_pixel R149). -/
theorem pixIndex_toNat {s : State} (h : ConfigInv s) {x y : Byte} (hr : inRange s x y = true) :
    (pixIndex s x y).toNat = x.toNat / 2 + y.toNat * s.stride.toNat := by
  obtain ⟨hx, hy⟩ := (inRange_iff s x y).1 hr
  have hw := h.wmax
  have hh := h.hmax
  have hwm := h.widthMax
  have hhm := h.heightMax
  have hsh : (x >>> 1).toNat = x.toNat / 2 := by
    rw [BitVec.toNat_ushiftRight]; rfl
  unfold pixIndex
  rw [index_toNat h _ _ (by rw [hsh]; omega) (by omega), hsh]

theorem pixIndex_lt {s : State} (h : ConfigInv s) {x y : Byte} (hr : inRange s x y = true) :
    (pixIndex s x y).toNat < s.fbLen := by
  rw [pixIndex_toNat h hr]
  obtain ⟨hx, hy⟩ := (inRange_iff s x y).1 hr
  have hw := h.wmax
  have hs := h.stride_toNat
  have hwm := h.widthMin
  have hev := h.widthEven
  have hht := h.height_hmax
  have hlt : x.toNat / 2 < s.stride.toNat := by omega
  unfold State.fbLen
  calc x.toNat / 2 + y.toNat * s.stride.toNat < s.stride.toNat + y.toNat * s.stride.toNat := by omega
    _ = (y.toNat + 1) * s.stride.toNat := by rw [Nat.add_mul, Nat.one_mul, Nat.add_comm]
    _ ≤ s.cfgHeight.toNat * s.stride.toNat := Nat.mul_le_mul_right _ (by omega)
    _ = s.stride.toNat * s.cfgHeight.toNat := Nat.mul_comm _ _

/-! ### Framebuffer accesses -/

theorem memRead_of_lt {s : State} {i : Index} (h : i.toNat < s.fbLen) :
    s.memRead i = some (s.fb.read i.toNat) := if_pos h

theorem memWrite_of_lt {s : State} {i : Index} (v : Byte) (h : i.toNat < s.fbLen) :
    s.memWrite i v = some { s with fb := s.fb.write i.toNat v } := if_pos h

theorem memReadMany_length {s : State} {n : Nat} {i : Index} {bs : List Byte}
    (h : s.memReadMany n i = some bs) : bs.length = n := by
  induction n generalizing i bs with
  | zero => simp only [State.memReadMany, Option.some.injEq] at h; subst h; rfl
  | succ n ih =>
    simp only [State.memReadMany] at h
    split at h
    · simp only [Option.some.injEq] at h
      subst h
      simp [ih ‹_›]
    · exact absurd h (by simp)

/-- Consecutive reads inside the framebuffer give its bytes in index order. -/
theorem memReadMany_of_le {s : State} (hf : s.fbLen ≤ 8192) (n : Nat) (i : Index)
    (h : i.toNat + n ≤ s.fbLen) :
    s.memReadMany n i = some ((List.range n).map fun k => s.fb.read (i.toNat + k)) := by
  induction n generalizing i with
  | zero => rfl
  | succ n ih =>
    have hi : (i + 1).toNat = i.toNat + 1 := by
      rw [BitVec.toNat_add]; exact Nat.mod_eq_of_lt (by simp; omega)
    have hrec := ih (i + 1) (by omega)
    simp only [State.memReadMany, memRead_of_lt (s := s) (i := i) (by omega), hrec, hi]
    rw [List.range_succ_eq_map]
    simp [Function.comp_def, Nat.add_assoc, Nat.add_comm 1]

/-- A pixel write inside a legal geometry: one nibble of one byte, response OK (41_pixel R140). -/
theorem writePixel_of_inRange {s : State} (h : ConfigInv s) {x y : Byte} (v : Byte)
    (hr : inRange s x y = true) :
    writePixel x y v s =
      .next (respond .ok { s with
        fb := s.fb.write (pixIndex s x y).toNat
          (setNibble (pixHigh x) v (s.fb.read (pixIndex s x y).toNat)) }) := by
  have hlt := pixIndex_lt h hr
  simp only [writePixel, if_pos hr, memRead_of_lt hlt, memWrite_of_lt _ hlt]

theorem writePixel_of_outOfRange {s : State} {x y : Byte} (v : Byte) (hr : inRange s x y = false) :
    writePixel x y v s = .next (respond .ok s) := by
  simp [writePixel, hr]

/-- Everything a pixel write can do when it answers a next state. -/
theorem writePixel_cases {s t : State} {x y v : Byte} (h : writePixel x y v s = .next t) :
    (inRange s x y = false ∧ t = respond .ok s) ∨
      (inRange s x y = true ∧ (pixIndex s x y).toNat < s.fbLen ∧
        t = respond .ok { s with
          fb := s.fb.write (pixIndex s x y).toNat
            (setNibble (pixHigh x) v (s.fb.read (pixIndex s x y).toNat)) }) := by
  unfold writePixel at h
  split at h
  · rename_i hr
    by_cases hlt : (pixIndex s x y).toNat < s.fbLen
    · rw [memRead_of_lt hlt] at h
      simp only [memWrite_of_lt _ hlt, Host.Outcome.next.injEq] at h
      exact .inr ⟨hr, hlt, h.symm⟩
    · simp only [State.memRead, if_neg hlt, reduceCtorEq] at h
  · rename_i hr
    simp only [Host.Outcome.next.injEq] at h
    exact .inl ⟨by simpa using hr, h.symm⟩

/-! ### The flush -/

/-- A window answer ends the flush only on an error under ABORT (42_bus R166). -/
theorem windowAnswer_cases (r : Result) (s : State) :
    (∃ e, r = .err e ∧ s.params.windowErrPolicy = .abort ∧ windowAnswer r s = .inl (.err e)) ∨
      windowAnswer r s = .inr s ∨
      (∃ e, r = .err e ∧ s.params.windowErrPolicy = .record ∧ windowAnswer r s = .inr (recordErr (.err e) s)) := by
  cases r with
  | ok => exact .inr (.inl rfl)
  | err e =>
    cases hp : s.params.windowErrPolicy
    · exact .inl ⟨e, rfl, rfl, by simp [windowAnswer, hp]⟩
    · exact .inr (.inr ⟨e, rfl, rfl, by simp [windowAnswer, hp]⟩)
    · exact .inr (.inl (by simp [windowAnswer, hp]))

/-- Everything starting a chunk can do when it answers a next state. -/
theorem startChunk_cases {s t : State} (h : startChunk s = .next t) :
    ∃ bytes, s.memReadMany 8 (chunkStart s) = some bytes ∧ bytes.length = 8 ∧
      t = startTransaction .flChunk (dataFrame s.params bytes) s := by
  unfold startChunk at h
  split at h
  · exact absurd h (by simp)
  · rename_i bytes hb
    simp only [Host.Outcome.next.injEq] at h
    exact ⟨bytes, hb, memReadMany_length hb, h.symm⟩

/-! ### Construction -/

/-- A legal configuration is one that breaks no line of 00_scope R6. -/
theorem checkConfig_eq_none_iff (c : BlockConfig) :
    checkConfig c = none ↔
      (c.width % 2 = 0 ∧ 2 ≤ c.width ∧ c.width ≤ 128) ∧ (1 ≤ c.height ∧ c.height ≤ 128) ∧
        (c.params.rev.ctrlCmd = 0x80 ∨ c.params.rev.ctrlCmd = 0x00) ∧
        c.params.ctrlData ≠ c.params.rev.ctrlCmd ∧ c.params.opc.length = 25 ∧ c.params.fixv.length = 4 := by
  have hb : isCommandControl c.params.rev.ctrlCmd = false ↔
      ¬ (c.params.rev.ctrlCmd = 0x80 ∨ c.params.rev.ctrlCmd = 0x00) := by
    simp [isCommandControl]
  unfold checkConfig
  split_ifs with h1 h2 h3 h4 h5 h6
  · simp; omega
  · simp; omega
  · simp only [false_iff]
    intro ⟨_, _, h, _⟩
    exact hb.1 h3 h
  · simp [h4]
  · simp [h5]
  · simp [h6]
  · simp only [true_iff]
    refine ⟨by omega, by omega, ?_, h4, by omega, by omega⟩
    by_contra h
    exact h3 (hb.2 h)

/-- The registers a legal construction loads (70_reset R240). -/
theorem build_registers {c : BlockConfig} (contents : List Byte) (h : checkConfig c = none) :
    (build c contents).cfgWidth.toNat = c.width ∧ (build c contents).cfgHeight.toNat = c.height ∧
      (build c contents).wmax.toNat = c.width - 1 ∧ (build c contents).hmax.toNat = c.height - 1 ∧
      (build c contents).halfwidth.toNat = (c.width - 1) / 2 := by
  obtain ⟨⟨h1, h2, h3⟩, ⟨h4, h5⟩, _⟩ := (checkConfig_eq_none_iff c).1 h
  refine ⟨?_, ?_, ?_, ?_, ?_⟩ <;> simp [build, BitVec.toNat_sub, BitVec.toNat_udiv] <;> omega

/-- A legal construction meets the configuration invariant. -/
theorem build_configInv {c : BlockConfig} (contents : List Byte) (h : checkConfig c = none) :
    ConfigInv (build c contents) := by
  obtain ⟨⟨h1, h2, h3⟩, ⟨h4, h5⟩, h6, h7, h8, h9⟩ := (checkConfig_eq_none_iff c).1 h
  obtain ⟨e1, e2, e3, e4, e5⟩ := build_registers contents h
  exact ⟨by omega, by omega, by omega, by omega, by omega, h6, h7, h8, h9, by omega, by omega, by omega⟩

/-- Everything a construction event can do when it answers a next state. -/
theorem takeReset_cases {ev : ResetEvent} {s t : State} (h : takeReset ev s = .next t) :
    checkConfig ev.config = none ∧
      t = { build ev.config ev.contents with
            hostReqs := s.hostReqs, busIn := s.busIn, encPort := s.encPort, encOut := s.encOut,
            resetPort := none, busLog := s.busLog, respLog := s.respLog } := by
  unfold takeReset construct at h
  cases hc : checkConfig ev.config with
  | some r => simp [hc] at h
  | none => simp only [hc, Host.Outcome.next.injEq] at h; exact ⟨rfl, h.symm⟩

end Sys2Proof.Machine
end

