-- ==== Sys2Proof/Laws/Step.lean ====
section
/-! SUPPORT. What a step can do, once: the inversion of accepting a request, of a bus answer and of a
step. Every fact about all steps is a case analysis over these. -/

namespace Sys2Proof.Machine

/-- What accepting a request can do, by its code, from the state that latched it. -/
inductive RequestCase (r : Request) (s t : State) : Prop where
  | fault (c : FaultCause) (ho : r.op = 0 ∨ r.op = 4 ∨ 6 ≤ r.op.toNat) (ht : t = raiseFault c s)
  | cmd (tag : Tag) (a b : Byte) (ho : r.op = 0) (ht : t = startCommand .cmd tag a b s)
  | data (d : Data8) (ho : r.op = 1) (ht : t = startTransaction .data (dataFrame s.params d.toList) s)
  | ignored (ho : r.op = 2 ∨ r.op = 3) (ht : t = respond .ok s)
  | pixel (x y v : Byte) (ho : r.op = 2 ∨ r.op = 3) (hr : inRange s x y = true)
      (hi : (pixIndex s x y).toNat < s.fbLen)
      (ht : t = respond .ok { s with
        fb := s.fb.write (pixIndex s x y).toNat
          (setNibble (pixHigh x) v (s.fb.read (pixIndex s x y).toNat)) })
  | flush (ho : r.op = 4) (hf : flushable s = true)
      (ht : t = startCommand .flCol .columnAddress 0 s.halfwidth (clearErr s))
  | init (ho : r.op = 5) (ht : t = startCommand .init .unlock 0 0 { s with initStep := 0 })

/-- What a bus answer can do, from the state that took it. -/
inductive AnswerCase (r : Result) (s t : State) : Prop where
  | sent (hp : s.phase = .cmd ∨ s.phase = .data) (ht : t = respond r s)
  | windowEnds (hp : s.phase = .flCol ∨ s.phase = .flRow) (e : TransportError) (hr : r = .err e)
      (hpol : s.params.windowErrPolicy = .abort) (ht : t = respond (.err e) s)
  | rowWindow (hp : s.phase = .flCol) (u : State) (hu : u = s ∨ u = recordErr r s)
      (ht : t = startCommand .flRow .rowAddress 0 s.hmax u)
  | firstChunk (hp : s.phase = .flRow) (u : State) (hu : u = s ∨ u = recordErr r s) (bytes : List Byte)
      (hb : bytes.length = 8)
      (ht : t = startTransaction .flChunk (dataFrame s.params bytes) { u with y := 0, x := 0 })
  | nextChunk (hp : s.phase = .flChunk) (bytes : List Byte) (hb : bytes.length = 8)
      (hy : (advanceChunk (recordErr r s)).y ≤ s.hmax)
      (ht : t = startTransaction .flChunk (dataFrame s.params bytes) (advanceChunk (recordErr r s)))
  | flushDone (hp : s.phase = .flChunk) (hy : s.hmax < (advanceChunk (recordErr r s)).y)
      (ht : t = respond (flushResult (recordErr r s)) { advanceChunk (recordErr r s) with y := 0 })
  | initStep (hp : s.phase = .init) (c : Tag × Byte × Byte)
      (hc : (initScript s.params s.halfwidth s.hmax)[(s.initStep + 1).toNat]? = some c)
      (ht : t = startCommand .init c.1 c.2.1 c.2.2 { s with initStep := s.initStep + 1 })
  | initDone (hp : s.phase = .init)
      (hc : (initScript s.params s.halfwidth s.hmax)[(s.initStep + 1).toNat]? = none)
      (ht : t = respond .ok { s with initStep := 0 })

/-- What a step can do. -/
inductive StepCase (s t : State) : Prop where
  | reset (ev : ResetEvent) (hp : s.resetPort = some ev) (hc : checkConfig ev.config = none)
      (ht : t = { build ev.config ev.contents with
        hostReqs := s.hostReqs, busIn := s.busIn, encPort := s.encPort, encOut := s.encOut,
        resetPort := none, busLog := s.busLog, respLog := s.respLog })
  | encoder (hr : s.resetPort = none) (q : EncQuery) (hp : s.encPort = some q) (out : EncOut)
      (ht : t = driveEncoder out (accept (.query q) s))
  | wait (hr : s.resetPort = none) (he : s.encPort = none) (ht : t = s)
  | request (hr : s.resetPort = none) (he : s.encPort = none) (hi : s.phase = .idle) (r : Request)
      (rest : List Request) (hq : s.hostReqs = r :: rest) (hc : RequestCase r (accept (.request r) s) t)
  | answer (hr : s.resetPort = none) (he : s.encPort = none) (hb : s.phase.onBus = true) (r : Result)
      (rest : List Result) (hq : s.busIn = r :: rest) (hc : AnswerCase r { s with busIn := rest } t)

theorem whenReady_of_idle {s : State} (h : s.phase = .idle) (k : Host.Outcome State Fault Refusal) :
    whenReady s k = k := by
  simp [whenReady, State.reqReady, h]

theorem whenReady_of_busy {s : State} (h : s.phase ≠ .idle) (k : Host.Outcome State Fault Refusal) :
    whenReady s k = .next s := by
  simp [whenReady, State.reqReady, h]

theorem windowAnswer_inr {r : Result} {s u : State} (h : windowAnswer r s = .inr u) :
    u = s ∨ u = recordErr r s := by
  rcases windowAnswer_cases r s with ⟨e, _, _, h1⟩ | h1 | ⟨e, rfl, _, h1⟩
  · rw [h1] at h; exact absurd h (by simp)
  · rw [h1] at h; exact .inl (Sum.inr.inj h).symm
  · rw [h1] at h; exact .inr (Sum.inr.inj h).symm

theorem windowAnswer_inl {r resp : Result} {s : State} (h : windowAnswer r s = .inl resp) :
    ∃ e, r = .err e ∧ s.params.windowErrPolicy = .abort ∧ resp = .err e := by
  rcases windowAnswer_cases r s with ⟨e, hr, hp, h1⟩ | h1 | ⟨e, _, _, h1⟩
  · rw [h1] at h; exact ⟨e, hr, hp, (Sum.inl.inj h).symm⟩
  · rw [h1] at h; exact absurd h (by simp)
  · rw [h1] at h; exact absurd h (by simp)

/-- The first step of the script is UNLOCK. -/
theorem initNext_first (s : State) :
    initNext { s with initStep := 0 } = startCommand .init .unlock 0 0 { s with initStep := 0 } := rfl

/-- Everything a decoded request can do in IDLE. -/
theorem exec_request_cases {s t : State} {r : Request} {i : Instr} (hi : s.phase = .idle)
    (hd : decodeRequest r = .ok i) (h : exec i s = .next t) : RequestCase r s t := by
  have pixel : r.op = 2 ∨ r.op = 3 → ∀ x y v, writePixel x y v s = .next t → RequestCase r s t := by
    intro ho x y v hw
    rcases writePixel_cases hw with ⟨_, ht⟩ | ⟨hr, hlt, ht⟩
    · exact .ignored ho ht
    · exact .pixel x y v ho hr hlt ht
  have op : ∀ n : BitVec 3, r.op.toNat = n.toNat → r.op = n := fun _ h => BitVec.eq_of_toNat_eq h
  unfold decodeRequest at hd
  split at hd
  all_goals first
    | (simp only [reduceCtorEq] at hd)
    | (simp only [Except.ok.injEq] at hd; subst hd)
  · have ho := op 0 ‹_›
    simp only [exec, execSendCmd, whenReady_of_idle hi] at h
    split at h <;> simp only [Host.Outcome.next.injEq] at h
    · exact .fault _ (.inl ho) h.symm
    · exact .cmd _ _ _ ho h.symm
  · simp only [exec, execSendData, whenReady_of_idle hi, Host.Outcome.next.injEq] at h
    exact .data _ (op 1 ‹_›) h.symm
  · simp only [exec, execSetPixel, whenReady_of_idle hi] at h
    exact pixel (.inl (op 2 ‹_›)) _ _ _ h
  · have ho : r.op = 2 ∨ r.op = 3 := .inr (op 3 ‹_›)
    simp only [exec, execDrawPixel, whenReady_of_idle hi] at h
    split at h
    · exact pixel ho _ _ _ h
    · simp only [Host.Outcome.next.injEq] at h
      exact .ignored ho h.symm
  · have ho := op 4 ‹_›
    simp only [exec, execFlush, whenReady_of_idle hi] at h
    split at h <;> simp only [Host.Outcome.next.injEq] at h
    · exact .flush ho ‹_› h.symm
    · exact .fault _ (.inr (.inl ho)) h.symm
  · simp only [exec, execInit, whenReady_of_idle hi, initNext_first, Host.Outcome.next.injEq] at h
    exact .init (op 5 ‹_›) h.symm

/-- A request code that decodes to nothing is 6 or 7. -/
theorem decodeRequest_error {r : Request} {e : Reject} (h : decodeRequest r = .error e) :
    e = .badOp ∧ 6 ≤ r.op.toNat := by
  unfold decodeRequest at h
  split at h
  case h_7 h0 h1 h2 h3 h4 h5 =>
    exact ⟨(Except.error.inj h).symm, by
      have h0 : ¬ r.op.toNat = 0 := h0
      have h1 : ¬ r.op.toNat = 1 := h1
      have h2 : ¬ r.op.toNat = 2 := h2
      have h3 : ¬ r.op.toNat = 3 := h3
      have h4 : ¬ r.op.toNat = 4 := h4
      have h5 : ¬ r.op.toNat = 5 := h5
      omega⟩
  all_goals simp only [reduceCtorEq] at h

/-- Everything a command at the encoder port does: its frame is driven, nothing else changes. -/
theorem exec_instrOfTag (t : Tag) (a b : Byte) (s : State) :
    exec (instrOfTag t a b) s = .next (driveEncoder (encodeCommand s.params t a b) s) := by
  cases t <;> rfl

/-- Everything a bus answer can do when it answers a next state. -/
theorem answered_cases {r : Result} {s t : State} (hb : s.phase.onBus = true) (h : answered r s = .next t) :
    AnswerCase r s t := by
  unfold answered at h
  split at h
  · rename_i hp; rw [hp] at hb; exact absurd hb (by decide)
  · rename_i hp
    simp only [sendAnswered, Host.Outcome.next.injEq] at h
    exact .sent (.inl hp) h.symm
  · rename_i hp
    simp only [sendAnswered, Host.Outcome.next.injEq] at h
    exact .sent (.inr hp) h.symm
  · rename_i hp
    unfold flushColAnswered at h
    split at h <;> simp only [Host.Outcome.next.injEq] at h
    · obtain ⟨e, hr, hpol, rfl⟩ := windowAnswer_inl ‹_›
      exact .windowEnds (.inl hp) e hr hpol h.symm
    · exact .rowWindow hp _ (windowAnswer_inr ‹_›) h.symm
  · rename_i hp
    unfold flushRowAnswered at h
    split at h
    · simp only [Host.Outcome.next.injEq] at h
      obtain ⟨e, hr, hpol, rfl⟩ := windowAnswer_inl ‹_›
      exact .windowEnds (.inr hp) e hr hpol h.symm
    · rename_i u hu
      obtain ⟨bytes, _, hl, ht⟩ := startChunk_cases h
      refine .firstChunk hp u (windowAnswer_inr hu) bytes hl ?_
      rcases windowAnswer_inr hu with rfl | rfl <;> simpa using ht
  · rename_i hp
    unfold flushChunkAnswered nextChunkOrDone at h
    split at h
    · rename_i hy
      simp only [Host.Outcome.next.injEq] at h
      refine .flushDone hp (by simpa using hy) ?_
      rw [← h, advanceChunk_flushResult]
    · rename_i hy
      simp only [advanceChunk_hmax, recordErr_hmax] at hy
      obtain ⟨bytes, _, hl, ht⟩ := startChunk_cases h
      refine .nextChunk hp bytes hl ?_ (by simpa using ht)
      simp only [BitVec.lt_def, BitVec.le_def] at hy ⊢
      omega
  · rename_i hp
    simp only [initAnswered, initNext, Host.Outcome.next.injEq] at h
    split at h
    · rename_i tg a b hc
      exact .initStep hp (tg, a, b) hc h.symm
    · exact .initDone hp ‹_› h.symm
  · rename_i hp; rw [hp] at hb; exact absurd hb (by decide)

/-- What no bus answer changes. -/
theorem AnswerCase.frame {r : Result} {s t : State} (h : AnswerCase r s t) :
    sameConfig s t ∧ t.fb = s.fb ∧ t.faulted = s.faulted ∧ t.faultCause = s.faultCause ∧
      t.hostReqs = s.hostReqs ∧ t.busIn = s.busIn ∧ t.encPort = s.encPort ∧ t.encOut = s.encOut ∧
      t.resetPort = s.resetPort := by
  cases h
  case rowWindow hp u hu ht =>
    rcases hu with rfl | rfl <;> subst ht <;> simp [sameConfig, startCommand, startTransaction]
  case firstChunk hp u hu bytes hb ht =>
    rcases hu with rfl | rfl <;> subst ht <;> simp [sameConfig, startTransaction]
  all_goals (rename_i ht; subst ht; simp [sameConfig, respond, startCommand, startTransaction])

/-- What no acceptance of a request changes. -/
theorem RequestCase.frame {r : Request} {s t : State} (h : RequestCase r s t) :
    sameConfig s t ∧ t.hostReqs = s.hostReqs ∧ t.busIn = s.busIn ∧ t.encPort = s.encPort ∧
      t.encOut = s.encOut ∧ t.resetPort = s.resetPort ∧ t.y = s.y ∧ t.x = s.x ∧ t.lastErr = s.lastErr := by
  cases h <;> rename_i ht <;> subst ht <;>
    simp [sameConfig, respond, startCommand, startTransaction, raiseFault, clearErr]

/-- The host's run of the machine is the run of its steps. -/
theorem runSteps_eq_run (k : Nat) (s : State) : runSteps k s = Host.Core.run core k s := by
  induction k generalizing s with
  | zero => rfl
  | succ k ih =>
    have h : core.step s = step s := rfl
    simp only [runSteps, Host.Core.run, h]
    cases step s with
    | next t => exact ih t
    | fault f => rfl
    | refused r => rfl

/-- In IDLE with quiet ports a step takes the host's first request and runs it. -/
theorem step_of_request {s : State} {r : Request} {rest : List Request} {i : Instr} (hq : quietPorts s)
    (hi : s.phase = .idle) (hr : s.hostReqs = r :: rest) (hd : decodeRequest r = .ok i) :
    step s = exec i (accept (.request r) s) := by
  obtain ⟨h1, h2⟩ := hq
  simp [step, h1, fetch, h2, State.reqReady, hi, hr, decode, hd]

/-- With a transaction on the bus and quiet ports a step takes the bus's first answer. -/
theorem step_of_answer {s : State} {r : Result} {more : List Result} (hq : quietPorts s)
    (hb : s.phase.onBus = true) (hr : s.busIn = r :: more) :
    step s = answered r { s with busIn := more } := by
  obtain ⟨h1, h2⟩ := hq
  have hi : s.phase ≠ .idle := by intro h; rw [h] at hb; exact absurd hb (by decide)
  have hf : fetch s = none := by simp [fetch, h2, State.reqReady, hi]
  simp [step, h1, hf, advance, hb, hr]

/-- Everything a step can do when it answers a next state. -/
theorem step_cases {s t : State} (h : step s = .next t) : StepCase s t := by
  unfold step at h
  cases hr : s.resetPort with
  | some ev =>
    rw [hr] at h
    obtain ⟨hc, ht⟩ := takeReset_cases h
    exact .reset ev hr hc ht
  | none =>
    simp only [hr] at h
    cases he : s.encPort with
    | some q =>
      simp only [fetch, he, decode, decodeQuery] at h
      cases hq : Tag.ofCode q.tag with
      | some tg =>
        simp only [hq, exec_instrOfTag, Host.Outcome.next.injEq] at h
        exact .encoder hr q he _ h.symm
      | none =>
        simp only [hq, rejectWord, Host.Outcome.next.injEq] at h
        exact .encoder hr q he _ h.symm
    | none =>
      by_cases hi : s.phase = .idle
      · cases hq : s.hostReqs with
        | nil =>
          simp only [fetch, he, State.reqReady, hi, hq, advance, Phase.onBus] at h
          simp only [List.head?_nil, Option.map_none, beq_self_eq_true, if_true, Bool.false_eq_true, if_false,
            Host.Outcome.next.injEq] at h
          exact .wait hr he h.symm
        | cons r rest =>
          simp only [fetch, he, State.reqReady, hi, hq, beq_self_eq_true, if_true, List.head?_cons,
            Option.map_some, decode] at h
          refine .request hr he hi r rest hq ?_
          cases hd : decodeRequest r with
          | ok i =>
            rw [hd] at h
            exact exec_request_cases (by simpa using hi) hd h
          | error e =>
            obtain ⟨rfl, ho⟩ := decodeRequest_error hd
            simp only [hd, rejectWord, Host.Outcome.next.injEq] at h
            exact .fault _ (.inr (.inr ho)) h.symm
      · have hn : s.reqReady = false := by simp [State.reqReady, hi]
        have hf : fetch s = none := by simp [fetch, he, hn]
        simp only [hf, advance] at h
        split at h
        · rename_i hb
          split at h
          · simp only [Host.Outcome.next.injEq] at h
            exact .wait hr he h.symm
          · rename_i r rest hq
            exact .answer hr he hb r rest hq (answered_cases hb h)
        · simp only [Host.Outcome.next.injEq] at h
          exact .wait hr he h.symm

end Sys2Proof.Machine
end

