-- ==== Sys2Proof/Laws/Pixels.lean ====
section
/-! SUPPORT. Nibbles, and what the two pixel requests do in a legal geometry. -/

namespace Sys2Proof.Machine

theorem pixHigh_iff (x : Byte) : pixHigh x = true ↔ x.toNat % 2 = 0 := by
  simp [pixHigh, BitVec.getLsbD, Nat.testBit_zero]

theorem pixHigh_eq_false_iff (x : Byte) : pixHigh x = false ↔ x.toNat % 2 = 1 := by
  have h := pixHigh_iff x
  cases hp : pixHigh x
  · rw [hp] at h; simp at h; simp [h]
  · rw [hp] at h; simp at h; simp [h]

/-- The nibble written is the low four bits of the value. -/
theorem nibble_setNibble (high : Bool) (v b : Byte) : nibble high (setNibble high v b) = v.setWidth 4 := by
  cases high <;> simp only [nibble, setNibble, gray] <;> ext i hi <;> interval_cases i <;> simp

/-- The other nibble is kept. -/
theorem nibble_setNibble_other (high : Bool) (v b : Byte) :
    nibble (!high) (setNibble high v b) = nibble (!high) b := by
  cases high <;> simp only [nibble, setNibble, gray, Bool.not_false, Bool.not_true] <;> ext i hi <;>
    interval_cases i <;> simp

theorem setNibble_comm (a c b : Byte) :
    setNibble false c (setNibble true a b) = setNibble true a (setNibble false c b) := by
  simp only [setNibble, gray]; ext i hi; interval_cases i <;> simp

theorem setNibble_both (a c b : Byte) :
    setNibble false c (setNibble true a b) = ((a &&& 0x0F) <<< 4) ||| (c &&& 0x0F) := by
  simp only [setNibble, gray]; ext i hi; interval_cases i <;> simp

theorem setNibble_twice (high : Bool) (a c b : Byte) :
    setNibble high c (setNibble high a b) = setNibble high c b := by
  cases high <;> simp only [setNibble, gray] <;> ext i hi <;> interval_cases i <;> simp

/-- Of two writes to one index the later wins. -/
theorem Memory.write_write (m : Memory) (i : Nat) (v w : Byte) (hw : m.wf = true) :
    (m.write i v).write i w = m.write i w := by
  have hv := Memory.wf_write m i v hw
  refine Memory.ext_of_read (lo := 0) _ _ (Memory.wf_write _ _ _ hv) (Memory.wf_write _ _ _ hw) fun a => ?_
  by_cases ha : a = i
  · subst ha; rw [Memory.read_write_same _ _ _ hv, Memory.read_write_same _ _ _ hw]
  · rw [Memory.read_write_other _ _ _ _ ha hv, Memory.read_write_other _ _ _ _ ha hw,
      Memory.read_write_other _ _ _ _ ha hw]

/-- The configuration invariant speaks of the configuration only. -/
theorem ConfigInv.of_same {s t : State} (h : ConfigInv s) (e : sameConfig s t) : ConfigInv t := by
  obtain ⟨e1, e2, e3, e4, e5, e6, e7⟩ := e
  cases h
  constructor <;> simp_all

theorem drawInRange_iff (s : State) (sx sy : BitVec 32) :
    drawInRange s sx sy = true ↔
      0 ≤ sx.toInt ∧ 0 ≤ sy.toInt ∧ sx.toInt < s.cfgWidth.toNat ∧ sy.toInt < s.cfgHeight.toNat := by
  simp [drawInRange, and_assoc]

/-- Narrowing a coordinate that passed the check loses nothing. -/
theorem narrow_toNat (sx : BitVec 32) (w : Nat) (hw : w ≤ 128) (h0 : 0 ≤ sx.toInt) (h1 : sx.toInt < w) :
    ((sx.setWidth 8).toNat : Int) = sx.toInt := by
  have hn : sx.toInt = sx.toNat := by
    rw [BitVec.toInt_eq_toNat_cond] at *
    split_ifs at * <;> omega
  rw [BitVec.toNat_setWidth]
  omega

/-- A drawing pair inside the extent is an in-range pixel at the same coordinates. -/
theorem drawInRange_narrow {s : State} {sx sy : BitVec 32} (hc : ConfigInv s)
    (h : drawInRange s sx sy = true) :
    ((sx.setWidth 8).toNat : Int) = sx.toInt ∧ ((sy.setWidth 8).toNat : Int) = sy.toInt ∧
      inRange s (sx.setWidth 8) (sy.setWidth 8) = true := by
  obtain ⟨a, b, c, d⟩ := (drawInRange_iff s sx sy).1 h
  have h1 := narrow_toNat sx _ hc.widthMax a c
  have h2 := narrow_toNat sy _ hc.heightMax b d
  have hw := hc.wmax
  have hh := hc.hmax
  exact ⟨h1, h2, (inRange_iff _ _ _).2 ⟨by omega, by omega⟩⟩

end Sys2Proof.Machine
end

