-- ==== Sys2Proof/Laws/Flush.lean ====
section
/-! SUPPORT. The flush: which meaning answers a phase, where the chunk loop goes next, and what the error
register gives at the end. -/

namespace Sys2Proof.Machine

theorem runSteps_zero (s : State) : runSteps 0 s = .next s := rfl

/-- One step, then the rest of the run. -/
theorem runSteps_succ_of_next {s t : State} (k : Nat) (h : step s = .next t) :
    runSteps (k + 1) s = runSteps k t := by
  simp only [runSteps, h]

theorem answered_of_flCol {r : Result} {s : State} (h : s.phase = .flCol) :
    answered r s = flushColAnswered r s := by
  simp only [answered, h]

theorem answered_of_flRow {r : Result} {s : State} (h : s.phase = .flRow) :
    answered r s = flushRowAnswered r s := by
  simp only [answered, h]

theorem answered_of_flChunk {r : Result} {s : State} (h : s.phase = .flChunk) :
    answered r s = flushChunkAnswered r s := by
  simp only [answered, h]

theorem answered_of_init {r : Result} {s : State} (h : s.phase = .init) :
    answered r s = initAnswered r s := by
  simp only [answered, h]

/-- A window answer that does not end the flush goes on from a state whose result is the recorded one
(42_bus R166). -/
theorem windowAnswer_continues (a : Result) (s : State)
    (h : s.params.windowErrPolicy = .abort → a = .ok) :
    ∃ v, windowAnswer a s = .inr v ∧ (v = s ∨ v = recordErr a s) ∧
      flushResult v =
        if s.params.windowErrPolicy = .record then latestError [flushResult s, a] else flushResult s := by
  cases a with
  | ok => exact ⟨s, rfl, .inl rfl, by simp [latestError]⟩
  | err e =>
    cases hp : s.params.windowErrPolicy
    · exact absurd (h hp) (by simp)
    · exact ⟨_, by simp [windowAnswer, hp], .inr rfl, by simp [latestError, recordErr, flushResult]⟩
    · exact ⟨s, by simp [windowAnswer, hp], .inl rfl, by simp⟩

/-- Inside the geometry a chunk goes out with the eight bytes at its position (42_bus R167, R168). -/
theorem startChunk_of_inside {s : State} (hc : ConfigInv s)
    (hx : s.x.toNat + 8 ≤ s.halfwidth.toNat + 1) (hy : s.y.toNat ≤ s.hmax.toNat) :
    startChunk s = .next (startTransaction .flChunk (s.params.ctrlData :: (List.range 8).map
      fun k => s.fb.read (s.x.toNat + s.y.toNat * s.stride.toNat + k)) s) := by
  have hs := hc.stride_halfwidth
  have hb := hc.stride_bounds.2
  have hh := hc.height_hmax
  have hhm := hc.heightMax
  have hi : (chunkStart s).toNat = s.x.toNat + s.y.toNat * s.stride.toNat :=
    index_toNat hc _ _ (by omega) (by omega)
  have hlt : (chunkStart s).toNat + 8 ≤ s.fbLen := by
    rw [hi]
    unfold State.fbLen
    calc s.x.toNat + s.y.toNat * s.stride.toNat + 8 ≤ s.stride.toNat + s.y.toNat * s.stride.toNat := by
          omega
      _ = (s.y.toNat + 1) * s.stride.toNat := by rw [Nat.add_mul, Nat.one_mul, Nat.add_comm]
      _ ≤ s.cfgHeight.toNat * s.stride.toNat := Nat.mul_le_mul_right _ (by omega)
      _ = s.stride.toNat * s.cfgHeight.toNat := Nat.mul_comm _ _
  unfold startChunk
  rw [memReadMany_of_le hc.fbLen_le 8 _ hlt, hi]
  rfl

/-- Everything the chunk loop does after a chunk in a flushable geometry (42_bus R167, R170). -/
theorem nextChunkOrDone_advance {u : State} (hc : ConfigInv u) (hf : flushable u = true)
    (hx : u.x.toNat ≤ u.halfwidth.toNat ∧ u.x.toNat % 8 = 0) (hy : u.y.toNat ≤ u.hmax.toNat) :
    nextChunkOrDone (advanceChunk u) =
      if u.x.toNat + 8 ≤ u.halfwidth.toNat then
        .next (startTransaction .flChunk (u.params.ctrlData :: (List.range 8).map fun k =>
          u.fb.read (u.x.toNat + 8 + u.y.toNat * u.stride.toNat + k)) { u with x := u.x + 8 })
      else if u.y.toNat < u.hmax.toNat then
        .next (startTransaction .flChunk (u.params.ctrlData :: (List.range 8).map fun k =>
          u.fb.read ((u.y.toNat + 1) * u.stride.toNat + k)) { u with x := 0, y := u.y + 1 })
      else .next (respond (flushResult u) { u with x := 0, y := 0 }) := by
  have hfl : u.stride.toNat % 8 = 0 := by simpa [flushable] using hf
  have hs := hc.stride_halfwidth
  have hsb := hc.stride_bounds
  have hh := hc.height_hmax
  have hhm := hc.heightMax
  have hx8 : (u.x + 8).toNat = u.x.toNat + 8 := by rw [BitVec.toNat_add]; simp; omega
  have hy1 : (u.y + 1).toNat = u.y.toNat + 1 := by rw [BitVec.toNat_add]; simp; omega
  split_ifs with h1 h2
  · have ha : advanceChunk u = { u with x := u.x + 8 } := by
      rw [advanceChunk, if_neg (by rw [BitVec.lt_def, hx8]; omega)]
    rw [ha, nextChunkOrDone, if_neg (by show ¬ u.hmax < u.y; rw [BitVec.lt_def]; omega),
      startChunk_of_inside (by exact hc.of_same (by simp [sameConfig]))
        (by show (u.x + 8).toNat + 8 ≤ _; simp only [hx8]; omega) (by exact hy)]
    simp only [hx8]
    rfl
  · have ha : advanceChunk u = { u with x := 0, y := u.y + 1 } := by
      rw [advanceChunk, if_pos (by rw [BitVec.lt_def, hx8]; omega)]
    rw [ha, nextChunkOrDone, if_neg (by show ¬ u.hmax < u.y + 1; rw [BitVec.lt_def, hy1]; omega),
      startChunk_of_inside (by exact hc.of_same (by simp [sameConfig]))
        (by show 0 + 8 ≤ u.halfwidth.toNat + 1; omega)
        (by show (u.y + 1).toNat ≤ u.hmax.toNat; omega)]
    simp only [hy1]
    simp [State.stride]
  · have ha : advanceChunk u = { u with x := 0, y := u.y + 1 } := by
      rw [advanceChunk, if_pos (by rw [BitVec.lt_def, hx8]; omega)]
    rw [ha, nextChunkOrDone, if_pos (by show u.hmax < u.y + 1; rw [BitVec.lt_def, hy1]; omega)]
    rfl

/-- An answer that is recorded stands for the errors recorded before it (42_bus R169). -/
theorem latestError_record (r : Result) (u : State) (rest : List Result) :
    latestError (flushResult u :: r :: rest) = latestError (flushResult (recordErr r u) :: rest) := by
  simp only [latestError]
  cases latestError rest with
  | err e => rfl
  | ok =>
    cases r with
    | ok => rfl
    | err e => rfl

end Sys2Proof.Machine
end

