-- ==== Sys2Proof/Laws/PerInstr.lean ====
section
/-! SUPPORT. Facts about every instruction as syntax, one lemma a constructor. -/

/-- The port code of a well-formed instruction is never a reserved one (30_encoding R91). -/
def Sys2Proof.Laws.EncodedCodes.Statement (i : Sys2Proof.Instr) : Prop :=
  i.wellFormed = true →
    match Sys2Proof.encode i with
    | .query q => q.tag.toNat < 25
    | .request r => r.op.toNat < 6 ∧ r.tag.toNat < 25

namespace Sys2Proof.Laws.EncodedCodes

theorem columnAddress (a b : Byte) : Statement (.columnAddress a b) := fun _ => Tag.code_lt .columnAddress
theorem rowAddress (a b : Byte) : Statement (.rowAddress a b) := fun _ => Tag.code_lt .rowAddress
theorem contrast (v : Byte) : Statement (.contrast v) := fun _ => Tag.code_lt .contrast
theorem remap (v : Byte) : Statement (.remap v) := fun _ => Tag.code_lt .remap
theorem startLine (v : Byte) : Statement (.startLine v) := fun _ => Tag.code_lt .startLine
theorem displayOffset (v : Byte) : Statement (.displayOffset v) := fun _ => Tag.code_lt .displayOffset
theorem normalDisplay : Statement (.normalDisplay) := fun _ => Tag.code_lt .normalDisplay
theorem allOn : Statement (.allOn) := fun _ => Tag.code_lt .allOn
theorem allOff : Statement (.allOff) := fun _ => Tag.code_lt .allOff
theorem inverseDisplay : Statement (.inverseDisplay) := fun _ => Tag.code_lt .inverseDisplay
theorem muxRatio (v : Byte) : Statement (.muxRatio v) := fun _ => Tag.code_lt .muxRatio
theorem internalVdd : Statement (.internalVdd) := fun _ => Tag.code_lt .internalVdd
theorem externalVdd : Statement (.externalVdd) := fun _ => Tag.code_lt .externalVdd
theorem displayOff : Statement (.displayOff) := fun _ => Tag.code_lt .displayOff
theorem displayOn : Statement (.displayOn) := fun _ => Tag.code_lt .displayOn
theorem phaseLength (v : Byte) : Statement (.phaseLength v) := fun _ => Tag.code_lt .phaseLength
theorem clockOsc (v : Byte) : Statement (.clockOsc v) := fun _ => Tag.code_lt .clockOsc
theorem gpio (v : Byte) : Statement (.gpio v) := fun _ => Tag.code_lt .gpio
theorem secondPrecharge (v : Byte) : Statement (.secondPrecharge v) := fun _ => Tag.code_lt .secondPrecharge
theorem linearLut : Statement (.linearLut) := fun _ => Tag.code_lt .linearLut
theorem prechargeVoltage (v : Byte) : Statement (.prechargeVoltage v) := fun _ => Tag.code_lt .prechargeVoltage
theorem vcomh (v : Byte) : Statement (.vcomh v) := fun _ => Tag.code_lt .vcomh
theorem functionSelectB (v : Byte) : Statement (.functionSelectB v) := fun _ => Tag.code_lt .functionSelectB
theorem unlock : Statement (.unlock) := fun _ => Tag.code_lt .unlock
theorem lock : Statement (.lock) := fun _ => Tag.code_lt .lock
theorem sendCmd (tag : BitVec 5) (a b : Byte) : Statement (.sendCmd tag a b) := fun h =>
  ⟨by simp, by simpa [Instr.wellFormed] using h⟩
theorem sendData (d : Data8) : Statement (.sendData d) := fun _ => ⟨by simp, by simp⟩
theorem setPixel (x y v : Byte) : Statement (.setPixel x y v) := fun _ => ⟨by simp, by simp⟩
theorem drawPixel (x y : BitVec 32) (v : Byte) : Statement (.drawPixel x y v) := fun _ => ⟨by simp, by simp⟩
theorem flush : Statement .flush := fun _ => ⟨by simp, by simp⟩
theorem init : Statement .init := fun _ => ⟨by simp, by simp⟩

end Sys2Proof.Laws.EncodedCodes
end

