-- ==== Sys2Proof/Tests/Slice0.lean ====
section
/-! SUPPORT. The model's own tests, with their expected values from spec/95_test_vectors.md and the encodings
of spec/30_encoding.md, and the witnesses of the statements' hypotheses. -/

namespace Sys2Proof.Tests

open Sys2Proof.Machine

/-! ### Helpers -/

/-- The parameters of the test vectors: CTRL_CMD 0x80, CTRL_DATA 0x40, the default instance of R86. -/
def testParams : Params where
  rev := ⟨0x80, 0x7F, 0xF1, 0x0F, 0x08⟩
  ctrlData := 0x40
  opc := defaultOpc
  fixv := defaultFixv
  initContrast := 0x7F
  initRemap := 0x51
  initStartLine := 0x00
  initOffset := 0x00
  initClock := 0x00
  initPrecharge2 := 0x0F
  initFuncB := 0x62
  windowErrPolicy := .record

def testConfig (w h : Nat) : BlockConfig := ⟨w, h, 0x3C, testParams⟩

/-- The block of that geometry over those framebuffer contents. -/
def block (w h : Nat) (contents : List Byte) : State := build (testConfig w h) contents

/-- The block in a phase, with a request in the latch and these answers to come. -/
def busy (ph : Phase) (answers : List Result) (s : State) : State :=
  { s with phase := ph, req := some { op := 4 }, busIn := answers }

/-- The block with these requests presented and these answers to come. -/
def asked (rs : List Request) (answers : List Result) (s : State) : State :=
  { s with hostReqs := rs, busIn := answers }

def policy (p : WindowErrPolicy) (s : State) : State :=
  { s with params := { s.params with windowErrPolicy := p } }

/-- One field of a next state. -/
def after {α : Type} (o : Host.Outcome State Fault Refusal) (f : State → α) : Option α :=
  match o with
  | .next t => some (f t)
  | .fault _ => none
  | .refused _ => none

/-- FB of V25. -/
def fb16 : List Byte := [0x01, 0x23, 0x45, 0x67, 0x89, 0xAB, 0xCD, 0xEF]

def e1 : TransportError := ⟨1⟩
def e2 : TransportError := ⟨2⟩

/-! ### Well-formedness and configuration -/

theorem test_wellFormed_refuses_tag_25 : (Instr.sendCmd 25 0 0).wellFormed = false := by decide

theorem test_wellFormed_refuses_tag_31 : (Instr.sendCmd 31 0 0).wellFormed = false := by decide

theorem test_wellFormed_takes_tag_24 : (Instr.sendCmd 24 0xFF 0xFF).wellFormed = true := by decide

/-- V36, the geometries. -/
theorem test_config_geometry_refused :
    [0, 1, 3, 127, 130, 256].map (fun w => checkConfig (testConfig w 128)) =
        List.replicate 6 (some .illegalWidth) ∧
      [0, 129].map (fun h => checkConfig (testConfig 128 h)) = List.replicate 2 (some .illegalHeight) ∧
      [2, 128].map (fun w => checkConfig (testConfig w 1)) = [none, none] ∧
      checkConfig (testConfig 128 128) = none := by decide

/-- V36 and R214, the bytes and the tables. -/
theorem test_config_bytes_refused :
    checkConfig ⟨4, 2, 0x3C, { testParams with rev := ⟨0x40, 0, 0, 0, 0⟩ }⟩ = some .illegalCtrlCmd ∧
      checkConfig ⟨4, 2, 0x3C, { testParams with ctrlData := 0x80 }⟩ = some .illegalCtrlData ∧
      checkConfig ⟨4, 2, 0x3C, { testParams with opc := defaultOpc.drop 1 }⟩ = some .opcNotTotal ∧
      checkConfig ⟨4, 2, 0x3C, { testParams with fixv := [0x01, 0x00, 0x12] }⟩ = some .fixvNotTotal := by
  decide

/-! ### Decoding: the words of the opcode table, byte 0 first, written out from R81 to R83 and R86 -/

theorem test_decode_window_words :
    decodeTableWord 32 0x8015003F = some (.columnAddress 0x00 0x3F) ∧
      decodeTableWord 32 0x80750580 = some (.rowAddress 0x05 0x80) := by decide

theorem test_decode_value_words :
    decodeTableWord 24 0x80817F = some (.contrast 0x7F) ∧ decodeTableWord 24 0x80A051 = some (.remap 0x51) ∧
      decodeTableWord 24 0x80A101 = some (.startLine 0x01) ∧
      decodeTableWord 24 0x80A202 = some (.displayOffset 0x02) ∧
      decodeTableWord 24 0x80A87F = some (.muxRatio 0x7F) ∧
      decodeTableWord 24 0x80B1F1 = some (.phaseLength 0xF1) ∧
      decodeTableWord 24 0x80B303 = some (.clockOsc 0x03) ∧ decodeTableWord 24 0x80B502 = some (.gpio 0x02) ∧
      decodeTableWord 24 0x80B60F = some (.secondPrecharge 0x0F) ∧
      decodeTableWord 24 0x80BC08 = some (.prechargeVoltage 0x08) ∧
      decodeTableWord 24 0x80BE0F = some (.vcomh 0x0F) ∧
      decodeTableWord 24 0x80D562 = some (.functionSelectB 0x62) := by decide

theorem test_decode_fixed_words :
    decodeTableWord 24 0x80AB01 = some .internalVdd ∧ decodeTableWord 24 0x80AB00 = some .externalVdd ∧
      decodeTableWord 24 0x80FD12 = some .unlock ∧ decodeTableWord 24 0x80FD16 = some .lock ∧
      decodeTableWord 24 0x80FD17 = none := by decide

theorem test_decode_plain_words :
    decodeTableWord 16 0x80A4 = some .normalDisplay ∧ decodeTableWord 16 0x80A5 = some .allOn ∧
      decodeTableWord 16 0x80A6 = some .allOff ∧ decodeTableWord 16 0x80A7 = some .inverseDisplay ∧
      decodeTableWord 16 0x80AE = some .displayOff ∧ decodeTableWord 16 0x80AF = some .displayOn ∧
      decodeTableWord 16 0x80B9 = some .linearLut := by decide

theorem test_decode_request_words :
    (List.range 8).map (decodeTableWord 8) =
      [some (.sendCmd 0 0 0), some (.sendData {}), some (.setPixel 0 0 0), some (.drawPixel 0 0 0),
        some .flush, some .init, none, none] := by decide

/-- A frame of a bad control byte, an opcode of no tag, a wrong length and a data frame are no commands. -/
theorem test_decode_rejects_frames :
    decodeFrame defaultOpc defaultFixv [0x40, 0xA4] = .error .notAFrame ∧
      decodeFrame defaultOpc defaultFixv [0x80, 0x2F] = .error .notAFrame ∧
      decodeFrame defaultOpc defaultFixv [0x80, 0xA4, 0x00] = .error .notAFrame ∧
      decodeFrame defaultOpc defaultFixv [0x80] = .error .notAFrame ∧
      decodeFrame defaultOpc defaultFixv [0x40, 1, 2, 3, 4, 5, 6, 7, 8] = .error .notAFrame ∧
      decodeFrame defaultOpc defaultFixv [] = .error .notAFrame := by decide

/-- The reserved codes at the two ports (R91), and the codes next to them. -/
theorem test_decode_rejects_reserved_codes :
    decode (.query ⟨25, 0, 0⟩) = .error .reservedTag ∧ decode (.query ⟨31, 0, 0⟩) = .error .reservedTag ∧
      decode (.query ⟨24, 0, 0⟩) = .ok .lock ∧ decode (.request { op := 6 }) = .error .badOp ∧
      decode (.request { op := 7 }) = .error .badOp ∧ decode (.request { op := 5 }) = .ok .init := by decide

/-- R92's syntax. -/
theorem test_render :
    render (.columnAddress 10 20) = "COLUMN_ADDRESS(10, 20)" ∧ render .lock = "LOCK" ∧
      render (.sendCmd 2 0x7F 0) = "send_cmd CONTRAST(127)" ∧ render (.setPixel 3 1 3) = "set_pixel 3, 1, 3" ∧
      render (.drawPixel (BitVec.ofInt 32 (-1)) 0 9) = "draw_pixel -1, 0, 9" ∧ render .flush = "flush" := by
  decide

/-! ### The command encoder (V1, V2, V3) -/

theorem test_encode_windows :
    encodeCommand testParams .columnAddress 0x00 0x3F = ⟨0x80, 0x15, 0x00, 0x3F, 4⟩ ∧
      encodeCommand testParams .rowAddress 0x00 0x7F = ⟨0x80, 0x75, 0x00, 0x7F, 4⟩ ∧
      encodeCommand testParams .columnAddress 0x3F 0x00 = ⟨0x80, 0x15, 0x3F, 0x00, 4⟩ ∧
      encodeCommand testParams .rowAddress 0xFF 0xFF = ⟨0x80, 0x75, 0xFF, 0xFF, 4⟩ := by decide

theorem test_encode_values :
    encodeCommand testParams .contrast 0x00 0xFF = ⟨0x80, 0x81, 0x00, 0x00, 3⟩ ∧
      encodeCommand testParams .remap 0x51 0 = ⟨0x80, 0xA0, 0x51, 0x00, 3⟩ ∧
      encodeCommand testParams .startLine 0 0 = ⟨0x80, 0xA1, 0x00, 0x00, 3⟩ ∧
      encodeCommand testParams .displayOffset 0 0 = ⟨0x80, 0xA2, 0x00, 0x00, 3⟩ ∧
      encodeCommand testParams .muxRatio 0x80 0 = ⟨0x80, 0xA8, 0x80, 0x00, 3⟩ ∧
      encodeCommand testParams .phaseLength 0xF1 0 = ⟨0x80, 0xB1, 0xF1, 0x00, 3⟩ ∧
      encodeCommand testParams .clockOsc 0 0 = ⟨0x80, 0xB3, 0x00, 0x00, 3⟩ ∧
      encodeCommand testParams .gpio 0x40 0 = ⟨0x80, 0xB5, 0x40, 0x00, 3⟩ ∧
      encodeCommand testParams .secondPrecharge 0x0F 0 = ⟨0x80, 0xB6, 0x0F, 0x00, 3⟩ ∧
      encodeCommand testParams .prechargeVoltage 0x08 0 = ⟨0x80, 0xBC, 0x08, 0x00, 3⟩ ∧
      encodeCommand testParams .vcomh 0x0F 0 = ⟨0x80, 0xBE, 0x0F, 0x00, 3⟩ ∧
      encodeCommand testParams .functionSelectB 0x62 0 = ⟨0x80, 0xD5, 0x62, 0x00, 3⟩ := by decide

theorem test_encode_fixed :
    encodeCommand testParams .internalVdd 0x77 0x88 = ⟨0x80, 0xAB, 0x01, 0x00, 3⟩ ∧
      encodeCommand testParams .externalVdd 0 0 = ⟨0x80, 0xAB, 0x00, 0x00, 3⟩ ∧
      encodeCommand testParams .unlock 0 0 = ⟨0x80, 0xFD, 0x12, 0x00, 3⟩ ∧
      encodeCommand testParams .lock 0x12 0 = ⟨0x80, 0xFD, 0x16, 0x00, 3⟩ := by decide

theorem test_encode_plain :
    [Tag.normalDisplay, .allOn, .allOff, .inverseDisplay, .displayOff, .displayOn, .linearLut].map
        (fun t => encodeCommand testParams t 0x55 0xAA) =
      [⟨0x80, 0xA4, 0, 0, 2⟩, ⟨0x80, 0xA5, 0, 0, 2⟩, ⟨0x80, 0xA6, 0, 0, 2⟩, ⟨0x80, 0xA7, 0, 0, 2⟩,
        ⟨0x80, 0xAE, 0, 0, 2⟩, ⟨0x80, 0xAF, 0, 0, 2⟩, ⟨0x80, 0xB9, 0, 0, 2⟩] := by decide

/-- V2: under CTRL_CMD 0x00 only byte 0 changes. -/
theorem test_encode_other_revision :
    (encodeCommand { testParams with rev := ⟨0x00, 0, 0, 0, 0⟩ } .columnAddress 0x00 0x3F).frame =
      [0x00, 0x15, 0x00, 0x3F] := by decide

/-- V4: the sum of the 25 lengths. -/
theorem test_encode_length_sum :
    (Tag.all.map fun t => (encodeCommand testParams t 0 0).frame.length).sum = 70 := by decide

/-- A command at the encoder port in a busy block drives its frame and leaves the phase. -/
theorem test_encoder_port_step :
    (fun s : State => (after (step s) State.encOut, after (step s) State.phase, after (step s) State.encPort))
        { busy .flChunk [] (block 16 1 fb16) with encPort := some ⟨2, 0x7F, 0xFF⟩ } =
      (some ⟨0x80, 0x81, 0x7F, 0x00, 3⟩, some .flChunk, some none) := by decide

/-! ### SEND_CMD and SEND_DATA (V10 to V18) -/

theorem test_sendCmd_contrast :
    after (exec (.sendCmd 2 0x7F 0) (block 4 2 [])) State.busLog = some [⟨0x3C, [0x80, 0x81, 0x7F]⟩] ∧
      after (exec (.sendCmd 0 0x0A 0x14) (block 4 2 [])) State.busBytes = some [0x80, 0x15, 0x0A, 0x14] := by
  decide

theorem test_sendCmd_reserved_tags :
    after (exec (.sendCmd 25 0 0) (block 4 2 [])) (fun t => (t.phase, t.faulted, t.faultCause, t.busLog)) =
        some (.fault, true, .badTag, []) ∧
      after (exec (.sendCmd 31 0 0) (block 4 2 [])) State.faultCause = some .badTag := by decide

/-- V11: the answer is the response, verbatim. -/
theorem test_sendCmd_answered :
    after (step (busy .cmd [.err e1] (block 4 2 []))) (fun t => (t.phase, t.req, t.respLog, t.lastErrValid)) =
      some (.idle, none, [.err e1], false) := by decide

theorem test_sendData_frame :
    after (exec (.sendData ⟨1, 2, 3, 4, 5, 6, 7, 8⟩) (block 4 2 [])) State.busLog =
      some [⟨0x3C, [0x40, 0x01, 0x02, 0x03, 0x04, 0x05, 0x06, 0x07, 0x08]⟩] := by decide

theorem test_sendData_answered :
    after (step (busy .data [.err e2, .ok] (block 4 2 []))) (fun t => (t.phase, t.respLog, t.busIn)) =
      some (.idle, [.err e2], [.ok]) := by decide

/-- V17. -/
theorem test_reserved_requests :
    after (step (asked [{ op := 6 }] [.ok] (block 4 2 []))) (fun t => (t.phase, t.faultCause, t.respLog)) =
        some (.fault, .badOp, []) ∧
      after (step (asked [{ op := 7 }] [.ok] (block 4 2 []))) State.faultCause = some .badOp := by decide

/-- P2: in FAULT no request is taken. -/
theorem test_fault_takes_nothing :
    (fun s : State => (after (step s) State.hostReqs, s.reqReady))
        { asked [{ op := 5 }] [.ok] (block 4 2 []) with phase := .fault, faulted := true } =
      (some [{ op := 5 }], false) := by decide

/-! ### Pixels (V20 to V23) -/

theorem test_setPixel_nibbles :
    after (exec (.setPixel 0 0 0xF) (block 4 2 [0xA5])) (fun t => t.fb) = some [(0, 0xF5)] ∧
      after (exec (.setPixel 1 0 0xF) (block 4 2 [0xA5])) (fun t => t.fb) = some [(0, 0xAF)] ∧
      after (exec (.setPixel 1 0 0xAB) (block 4 2 [])) (fun t => t.fb) = some [(0, 0x0B)] ∧
      after (exec (.setPixel 3 1 0x3) (block 4 2 [0, 0, 0, 0x44])) (fun t => t.fb) = some [(3, 0x43)] := by
  decide

theorem test_setPixel_edges :
    after (exec (.setPixel 127 127 0x9) { block 128 128 [] with fb := [(8191, 0x12)] }) (fun t => t.fb) =
        some [(8191, 0x19)] ∧
      after (exec (.setPixel 128 0 0xF) (block 128 128 [])) (fun t => (t.fb, t.respLog)) = some ([], [.ok]) ∧
      after (exec (.setPixel 0 2 0xF) (block 4 2 [])) (fun t => (t.fb, t.respLog)) = some ([], [.ok]) ∧
      after (exec (.setPixel 0 0 0x0) (block 4 2 [0xF0])) (fun t => t.fb) = some [] := by decide

theorem test_drawPixel_inside :
    after (exec (.drawPixel 5 2 0x7) { block 128 128 [] with fb := [(130, 0x3C)] }) (fun t => t.fb) =
        some [(130, 0x37)] ∧
      after (exec (.drawPixel 0 1 0xE) (block 4 2 [0, 0, 0x33])) (fun t => t.fb) = some [(2, 0xE3)] := by decide

/-- V21: no coordinate is wrapped into range. -/
theorem test_drawPixel_outside :
    [(-1, 0), (0, -1), (128, 5), (5, 128), (256, 0), (-2147483648, 0), (2147483647, 2147483647)].map
        (fun p : Int × Int => after (exec (.drawPixel (BitVec.ofInt 32 p.1) (BitVec.ofInt 32 p.2) 0xF)
          (block 128 128 [])) fun t => (t.fb, t.respLog)) =
      List.replicate 7 (some ([], [.ok])) := by decide

/-- V23. -/
theorem test_draw_batch :
    ([(0, 0, 0x1), (BitVec.ofInt 32 (-1), 0, 0xF), (1, 0, 0x2), (0, 0, 0x3), (3, 1, 0x4)] :
        List (BitVec 32 × BitVec 32 × Byte)).foldl (paint (block 4 2 [])) [] = [(0, 0x32), (3, 0x04)] := by
  decide

/-- V24. -/
theorem test_size : (block 4 2 []).size = (4, 2) ∧ (block 128 128 []).size = (128, 128) := by decide

/-! ### FLUSH (V25 to V29) -/

theorem test_flush_starts :
    after (exec .flush (block 16 1 fb16)) (fun t => (t.phase, t.busLog, t.lastErrValid)) =
      some (.flCol, [⟨0x3C, [0x80, 0x15, 0x00, 0x07]⟩], false) := by decide

/-- V27: widths that are no multiple of 16, at both ends of the range. -/
theorem test_flush_geometry :
    [2, 14, 18, 126].map (fun w => after (exec .flush (block w 1 [])) fun t =>
        (t.phase, t.faultCause, t.busLog, t.respLog)) =
      List.replicate 4 (some (.fault, .flushGeometry, [], [])) := by decide

theorem test_flush_row_window :
    after (step (busy .flCol [.ok] (block 16 1 fb16))) (fun t => (t.phase, t.busLog)) =
      some (.flRow, [⟨0x3C, [0x80, 0x75, 0x00, 0x00]⟩]) := by decide

theorem test_flush_first_chunk :
    after (step (busy .flRow [.ok] (block 16 1 fb16))) (fun t => (t.phase, t.busLog)) =
      some (.flChunk, [⟨0x3C, [0x40, 0x01, 0x23, 0x45, 0x67, 0x89, 0xAB, 0xCD, 0xEF]⟩]) := by decide

/-- V26: after chunk (1, 8) of a 32x3 block comes (2, 0) with s = 32. -/
theorem test_flush_next_row :
    after (step { busy .flChunk [.ok] (block 32 3 ((List.range 48).map (BitVec.ofNat 8))) with y := 1, x := 8 })
        (fun t => (t.y, t.x, t.busBytes)) =
      some (2, 0, [0x40, 0x20, 0x21, 0x22, 0x23, 0x24, 0x25, 0x26, 0x27]) := by decide

theorem test_flush_done :
    after (step (busy .flChunk [.err e2] (block 16 1 fb16)))
        (fun t => (t.phase, t.respLog, t.lastErrValid, t.lastErr, t.y, t.x)) =
      some (.idle, [.err e2], true, e2, 0, 0) := by decide

/-- V29: a failed window under the three policies. -/
theorem test_flush_window_errors :
    [WindowErrPolicy.abort, .record, .discard].map (fun p =>
        after (step (busy .flCol [.err e1] (policy p (block 16 1 fb16))))
          fun t => (t.phase, t.respLog, t.lastErrValid)) =
      [some (.idle, [.err e1], false), some (.flRow, [], true), some (.flRow, [], false)] := by decide

/-! ### INIT (V31, V33) -/

theorem test_init_starts :
    after (exec .init (block 128 128 [])) (fun t => (t.phase, t.initStep, t.busLog)) =
      some (.init, 0, [⟨0x3C, [0x80, 0xFD, 0x12]⟩]) := by decide

theorem test_init_steps :
    after (step { busy .init [.err e1] (block 128 128 []) with initStep := 2 })
        (fun t => (t.initStep, t.busLog, t.lastErrValid)) =
        some (3, [⟨0x3C, [0x80, 0x75, 0x00, 0x7F]⟩], false) ∧
      after (step { busy .init [.err e1] (block 128 128 []) with initStep := 18 })
        (fun t => (t.phase, t.initStep, t.respLog)) = some (.idle, 0, [.ok]) := by decide

/-! ### Reset -/

/-- V35. -/
theorem test_reset_state :
    State.reset.phase = .idle ∧ State.reset.reqReady = true ∧ State.reset.size = (128, 128) ∧
      State.reset.fbLen = 8192 ∧ State.reset.faulted = false ∧ State.reset.busLog = [] := by decide

/-- A construction event leaves FAULT and loads the new geometry. -/
theorem test_reset_event :
    after (step { block 4 2 [] with phase := .fault, faulted := true, resetPort := some ⟨testConfig 16 1, fb16⟩ })
      (fun t => (t.phase, t.faulted, t.halfwidth, t.fb.read 7, t.busLog)) = some (.idle, false, 7, 0xEF, []) := by
  decide

/-- Every kind of table word runs as the first instruction after reset. -/
theorem test_words_run_from_reset :
    [(32, 0x15003F), (24, 0x80817F), (24, 0xFD16), (16, 0x80AF), (8, 0), (8, 1), (8, 2), (8, 3), (8, 4), (8, 5)].map
        (fun p : Nat × Nat => (after (step (State.reset.withFetchWord p.1 p.2)) State.faulted)) =
      List.replicate 10 (some false) := by decide

/-! ### Witnesses: for each statement with hypotheses, what meets them -/

/-- The block with a transaction of a flush on the bus, position (x, y). -/
def flushing (ph : Phase) (tag : Tag) (stop x y : Byte) (answers : List Result) (s : State) : State :=
  startCommand ph tag 0 stop { s with req := some { op := 4 }, busIn := answers, x := x, y := y }

theorem config_4x2 : ConfigInv (block 4 2 []) := build_configInv [] (by decide)

theorem config_128x128 : ConfigInv (block 128 128 []) := build_configInv [] (by decide)

theorem config_16x1 : ConfigInv (block 16 1 fb16) := build_configInv fb16 (by decide)

theorem inv_idle : BlockInv (block 16 1 fb16) :=
  ⟨config_16x1, by constructor <;> decide, by constructor <;> decide, by constructor <;> decide⟩

theorem inv_flRow : BlockInv (flushing .flRow .rowAddress 0 0 0 [.ok] (block 16 1 fb16)) :=
  ⟨by constructor <;> decide, by constructor <;> decide, by constructor <;> decide, by constructor <;> decide⟩

theorem inv_flChunk_same_row : BlockInv (flushing .flChunk .contrast 0 0 0 [.ok] (block 32 3 [])) :=
  ⟨by constructor <;> decide, by constructor <;> decide, by constructor <;> decide, by constructor <;> decide⟩

theorem inv_flChunk_next_row : BlockInv (flushing .flChunk .contrast 0 8 1 [.ok] (block 32 3 [])) :=
  ⟨by constructor <;> decide, by constructor <;> decide, by constructor <;> decide, by constructor <;> decide⟩

theorem inv_flChunk_last : BlockInv (flushing .flChunk .contrast 0 8 2 [.ok] (block 32 3 [])) :=
  ⟨by constructor <;> decide, by constructor <;> decide, by constructor <;> decide, by constructor <;> decide⟩

theorem witness_DecodeEncodeRoundTrip :
    (Instr.sendCmd 24 0xFF 0xFF).wellFormed = true ∧ (Instr.columnAddress 0xFF 0xFF).wellFormed = true := by
  decide

theorem witness_SentFramesDecodeBack :
    (testParams.rev.ctrlCmd = 0x80 ∧ testParams.opc = defaultOpc ∧ testParams.fixv = defaultFixv ∧
        frameOf testParams .externalVdd = some [0x80, 0xAB, 0x00]) ∧
      frameOf { testParams with rev := ⟨0x00, 0, 0, 0, 0⟩ } .lock = some [0x00, 0xFD, 0x16] := by decide

theorem witness_EncoderTableProperties :
    Tag.lock.arity = .f ∧ Tag.allOn.arity = .n ∧ Tag.gpio.arity = .v ∧ Tag.rowAddress.arity = .w ∧
      testParams.ctrlData ≠ testParams.rev.ctrlCmd ∧
      testParams.ctrlData ∈ (encodeCommand testParams .gpio 0x40 0).frame := by decide

theorem witness_DefaultInstanceFrames :
    (block 4 2 []).params.opc = defaultOpc ∧ (block 4 2 []).params.fixv = defaultFixv := by decide

theorem witness_ReservedTagGivesLengthZero :
    ({ block 4 2 [] with encPort := some ⟨25, 0, 0⟩ } : State).resetPort = none ∧
      25 ≤ (25 : BitVec 5).toNat ∧ 25 ≤ (31 : BitVec 5).toNat := by decide

theorem witness_StepRunsDecodedInstruction :
    fetch { busy .fault [] (block 4 2 []) with encPort := some ⟨24, 0, 0⟩ } = some (.query ⟨24, 0, 0⟩) ∧
      decode (.query ⟨24, 0, 0⟩) = .ok .lock ∧
      fetch (asked [{ op := 5 }, { op := 4 }] [] (block 4 2 [])) = some (.request { op := 5 }) ∧
      decode (.request { op := 5 }) = .ok .init := by decide

theorem witness_RequestsWaitWhileBusy :
    isRequest .init = true ∧ isRequest (.sendCmd 31 0 0) = true ∧
      (busy .fault [] (block 4 2 [])).phase ≠ .idle ∧
      after (step (busy .cmd [.ok] (block 4 2 []))) State.phase = some .idle := by decide

theorem witness_BlockWaits :
    quietPorts (busy .init [] (block 4 2 [])) ∧ (busy .init [] (block 4 2 [])).phase.onBus = true ∧
      (busy .init [] (block 4 2 [])).busIn = [] ∧ quietPorts (block 4 2 []) ∧
      (block 4 2 []).phase = .idle ∧ (block 4 2 []).hostReqs = [] :=
  ⟨⟨rfl, rfl⟩, by decide, by decide, ⟨rfl, rfl⟩, by decide, by decide⟩

theorem witness_SendCmdStarts :
    (block 4 2 []).phase = .idle ∧ Tag.ofCode 0 = some .columnAddress ∧ Tag.ofCode 24 = some .lock := by decide

theorem witness_SendCmdBadTagFaults :
    (block 4 2 []).phase = .idle ∧ 25 ≤ (25 : BitVec 5).toNat ∧ 25 ≤ (31 : BitVec 5).toNat := by decide

/-- Also the witness of SendDataAnswersVerbatim (`op` 1) and of ReservedRequestFaults (`op` 6 and 7). -/
theorem witness_SendCmdAnswersVerbatim (op : BitVec 3) (tag : BitVec 5) :
    quietPorts (asked [{ op := op, tag := tag }] [.err e1] (block 4 2 [])) ∧
      (asked [{ op := op, tag := tag }] [.err e1] (block 4 2 [])).phase = .idle ∧
      (asked [{ op := op, tag := tag }] [.err e1] (block 4 2 [])).hostReqs = [{ op := op, tag := tag }] ∧
      (asked [{ op := op, tag := tag }] [.err e1] (block 4 2 [])).busIn = [.err e1] ∧
      Tag.ofCode 24 = some .lock ∧ Tag.ofCode 25 = none ∧ 6 ≤ (6 : BitVec 3).toNat ∧ 6 ≤ (7 : BitVec 3).toNat :=
  ⟨⟨rfl, rfl⟩, rfl, rfl, rfl, by decide, by decide, by decide, by decide⟩

/-- The corners of the largest and of a small geometry; also the witness of SendDataStarts (IDLE). -/
theorem witness_PixelIndexExact :
    (ConfigInv (block 128 128 []) ∧ (127 : Byte).toNat ≤ (block 128 128 []).wmax.toNat ∧
        (127 : Byte).toNat ≤ (block 128 128 []).hmax.toNat) ∧
      ConfigInv (block 4 2 []) ∧ (3 : Byte).toNat ≤ (block 4 2 []).wmax.toNat ∧
      (1 : Byte).toNat ≤ (block 4 2 []).hmax.toNat ∧ (block 4 2 []).phase = .idle :=
  ⟨⟨config_128x128, by decide, by decide⟩, config_4x2, by decide, by decide, by decide⟩

/-- Even and odd x; also the witness of PixelWriteNibbleFrame and PixelWritesComposeAsStated (x = 2). -/
theorem witness_SetPixelWritesOneNibble :
    ConfigInv (block 4 2 []) ∧ (block 4 2 []).fb.wf = true ∧ (block 4 2 []).phase = .idle ∧
      (2 : Byte).toNat % 2 = 0 ∧ (2 : Byte).toNat + 1 ≤ (block 4 2 []).wmax.toNat ∧ (3 : Byte).toNat % 2 = 1 ∧
      (3 : Byte).toNat ≤ (block 4 2 []).wmax.toNat ∧ (1 : Byte).toNat ≤ (block 4 2 []).hmax.toNat ∧
      after (exec (.setPixel 3 1 0) (block 4 2 [])) State.phase = some .idle :=
  ⟨config_4x2, by decide, by decide, by decide, by decide, by decide, by decide, by decide, by decide⟩

theorem witness_SetPixelOutOfRangeIgnored :
    (block 4 2 []).phase = .idle ∧ (block 4 2 []).wmax.toNat < (4 : Byte).toNat ∧
      (block 4 2 []).hmax.toNat < (2 : Byte).toNat := by decide

theorem witness_DrawPixelInsideIsSetPixel :
    ConfigInv (block 4 2 []) ∧ (0 : Int) ≤ (3 : BitVec 32).toInt ∧
      (3 : BitVec 32).toInt < (block 4 2 []).cfgWidth.toNat ∧
      (1 : BitVec 32).toInt < (block 4 2 []).cfgHeight.toNat :=
  ⟨config_4x2, by decide, by decide, by decide⟩

theorem witness_DrawPixelOutsideDiscarded :
    (block 4 2 []).phase = .idle ∧ (BitVec.ofInt 32 (-1)).toInt < 0 ∧
      ((block 4 2 []).cfgWidth.toNat : Int) ≤ (4 : BitVec 32).toInt ∧
      ((block 4 2 []).cfgHeight.toNat : Int) ≤ (2 : BitVec 32).toInt := by decide

theorem witness_BatchPaintsInOrder :
    ConfigInv (asked (drawBatch [(0, 0, 1), (4, 0, 2)] ++ []) [] (block 4 2 [])) ∧
      quietPorts (asked (drawBatch [(0, 0, 1), (4, 0, 2)] ++ []) [] (block 4 2 [])) ∧
      (block 4 2 []).phase = .idle ∧ (block 4 2 []).req = none :=
  ⟨config_4x2.of_same ⟨rfl, rfl, rfl, rfl, rfl, rfl, rfl⟩, ⟨rfl, rfl⟩, by decide, by decide⟩

theorem witness_OnlyPixelRequestsChangeFb :
    (block 4 2 []).resetPort = none ∧
      after (step (asked [{ op := 2, value := 1 }] [] (block 4 2 []))) (fun t => t.fb) = some [(0, 0x10)] ∧
      (block 4 2 []).fb = [] := by decide

theorem witness_FlushStartsWithColumnWindow :
    (block 16 1 fb16).phase = .idle ∧ (block 16 1 fb16).stride.toNat % 8 = 0 ∧
      (block 128 128 []).stride.toNat % 8 = 0 := by decide

theorem witness_FlushGeometryFaults :
    ConfigInv (block 4 2 []) ∧ (block 4 2 []).phase = .idle ∧ (block 4 2 []).cfgWidth.toNat % 16 ≠ 0 :=
  ⟨config_4x2, by decide, by decide⟩

/-- A success, and an error under RECORD; also the witness of WindowErrorByPolicy in FL_COL. -/
theorem witness_RowWindowFollowsColumnWindow :
    quietPorts (busy .flCol [.ok] (block 16 1 fb16)) ∧ (busy .flCol [.ok] (block 16 1 fb16)).phase = .flCol ∧
      (busy .flCol [.err e1] (block 16 1 fb16)).params.windowErrPolicy ≠ .abort :=
  ⟨⟨rfl, rfl⟩, by decide, by decide⟩

theorem witness_WindowErrorByPolicy (p : WindowErrPolicy) :
    quietPorts (busy .flRow [] (policy p (block 16 1 fb16))) ∧
      (busy .flRow [] (policy p (block 16 1 fb16))).phase = .flRow ∧
      (busy .flRow [] (policy p (block 16 1 fb16))).params.windowErrPolicy = p :=
  ⟨⟨rfl, rfl⟩, rfl, rfl⟩

theorem witness_ChunkLoopStartsAtZero :
    BlockInv (flushing .flRow .rowAddress 0 0 0 [.ok] (block 16 1 fb16)) ∧
      quietPorts (flushing .flRow .rowAddress 0 0 0 [.ok] (block 16 1 fb16)) ∧
      (flushing .flRow .rowAddress 0 0 0 [.ok] (block 16 1 fb16)).phase = .flRow :=
  ⟨inv_flRow, ⟨rfl, rfl⟩, rfl⟩

/-- The three branches: the next columns, the next row, the end. -/
theorem witness_ChunkLoopAdvances :
    (BlockInv (flushing .flChunk .contrast 0 0 0 [.ok] (block 32 3 [])) ∧
        (0 : Byte).toNat + 8 ≤ (block 32 3 []).halfwidth.toNat) ∧
      (BlockInv (flushing .flChunk .contrast 0 8 1 [.ok] (block 32 3 [])) ∧
        ¬ (8 : Byte).toNat + 8 ≤ (block 32 3 []).halfwidth.toNat ∧
        (1 : Byte).toNat < (block 32 3 []).hmax.toNat) ∧
      BlockInv (flushing .flChunk .contrast 0 8 2 [.ok] (block 32 3 [])) ∧
      ¬ (2 : Byte).toNat < (block 32 3 []).hmax.toNat ∧
      quietPorts (flushing .flChunk .contrast 0 8 2 [.ok] (block 32 3 [])) :=
  ⟨⟨inv_flChunk_same_row, by decide⟩, ⟨inv_flChunk_next_row, by decide, by decide⟩, inv_flChunk_last,
    by decide, ⟨rfl, rfl⟩⟩

theorem witness_ChunkErrorRecordedAndFlushContinues :
    quietPorts (busy .flChunk [] (block 16 1 fb16)) ∧ (busy .flChunk [] (block 16 1 fb16)).phase = .flChunk ∧
      after (step (busy .flChunk [.ok] (block 16 1 fb16))) State.phase = some .idle :=
  ⟨⟨rfl, rfl⟩, rfl, by decide⟩

/-- With both windows failing under RECORD, and with none failing under ABORT. -/
theorem witness_WholeFlushTrace :
    (BlockInv (asked [{ op := 4 }] ([.err e1, .err e2] ++ ([.ok] ++ [])) (block 16 1 fb16)) ∧
        quietPorts (asked [{ op := 4 }] ([.err e1, .err e2] ++ ([.ok] ++ [])) (block 16 1 fb16)) ∧
        (block 16 1 fb16).cfgWidth.toNat % 16 = 0 ∧ [Result.ok].length = (block 16 1 fb16).nData ∧
        (block 16 1 fb16).params.windowErrPolicy = .record) ∧
      BlockInv (asked [{ op := 4 }] ([.ok, .ok] ++ ([.err e1] ++ [])) (policy .abort (block 16 1 fb16))) ∧
      (policy .abort (block 16 1 fb16)).params.windowErrPolicy = .abort :=
  ⟨⟨⟨by constructor <;> decide, by constructor <;> decide, by constructor <;> decide, by constructor <;> decide⟩,
      ⟨rfl, rfl⟩, by decide, by decide, by decide⟩,
    ⟨by constructor <;> decide, by constructor <;> decide, by constructor <;> decide, by constructor <;> decide⟩,
    by decide⟩

theorem witness_FlushCarriesEveryByteOnce :
    ConfigInv (block 16 1 fb16) ∧ (block 16 1 fb16).cfgWidth.toNat % 16 = 0 := ⟨config_16x1, by decide⟩

theorem witness_InitDiscardsAnswers :
    quietPorts (busy .init [] (block 4 2 [])) ∧ (busy .init [] (block 4 2 [])).phase = .init :=
  ⟨⟨rfl, rfl⟩, rfl⟩

/-- Also the witness of InitStartsWithUnlock (IDLE). -/
theorem witness_WholeInitTrace :
    quietPorts (asked [{ op := 5 }] (List.replicate 19 (.err e1) ++ []) (block 4 2 [])) ∧
      (asked [{ op := 5 }] (List.replicate 19 (.err e1) ++ []) (block 4 2 [])).phase = .idle ∧
      (List.replicate 19 (Result.err e1)).length = 19 :=
  ⟨⟨rfl, rfl⟩, rfl, by decide⟩

theorem witness_FaultPhaseIsTerminal :
    (busy .fault [.ok] (block 4 2 [])).resetPort = none ∧ (busy .fault [.ok] (block 4 2 [])).phase = .fault :=
  ⟨rfl, rfl⟩

theorem witness_FaultedIsSticky :
    (fun s : State => (s.resetPort, s.faulted, after (step s) State.faulted))
        { asked [{ op := 5 }] [.ok] (block 4 2 []) with phase := .fault, faulted := true } =
      (none, true, some true) := by decide

/-- The smallest and the largest geometry. -/
theorem witness_ConstructionLoadsEveryRegister :
    checkConfig (testConfig 2 1) = none ∧ [(0x77 : Byte)].length = (testConfig 2 1).width / 2 * 1 ∧
      checkConfig (testConfig 128 128) = none ∧
      (List.replicate 8192 (0xFF : Byte)).length = (testConfig 128 128).width / 2 * 128 :=
  ⟨by decide, by decide, by decide, by rw [List.length_replicate]; rfl⟩

theorem witness_ConstructionLeavesAnyPhase :
    construct (testConfig 16 1) fb16 = .ok (block 16 1 fb16) ∧
      construct (testConfig 130 1) [] = .error .illegalWidth := ⟨rfl, rfl⟩

/-- Also a state and a step for each statement about every step: StepKeepsInvariant, PhaseMovesOnEdges,
OneLegalTransactionAtATime, ConfigurationNeverChanges, ResponsesCompleteTheRequest. -/
theorem witness_StepKeepsInvariant :
    BlockInv (flushing .flRow .rowAddress 0 0 0 [.ok] (block 16 1 fb16)) ∧
      (flushing .flRow .rowAddress 0 0 0 [.ok] (block 16 1 fb16)).resetPort = none ∧
      after (step (flushing .flRow .rowAddress 0 0 0 [.ok] (block 16 1 fb16))) State.phase = some .flChunk :=
  ⟨inv_flRow, rfl, by decide⟩

/-- An invariant state, and a step that an illegal construction refuses. -/
theorem witness_NoStepStops :
    BlockInv (block 16 1 fb16) ∧
      step { block 16 1 fb16 with resetPort := some ⟨testConfig 3 1, []⟩ } = .refused .illegalWidth :=
  ⟨inv_idle, rfl⟩

/-- A window error under ABORT ends a flush, a request leaves IDLE and stays latched, a pixel request leaves
the block in IDLE. -/
theorem witness_PhaseMovesOnEdges :
    after (step (busy .flRow [.err e1] (policy .abort (block 16 1 fb16)))) State.phase = some .idle ∧
      after (step (asked [{ op := 5 }] [] (block 4 2 []))) (fun t => (t.phase, t.req, t.hostReqs)) =
        some (.init, some { op := 5 }, []) ∧
      after (step (asked [{ op := 2 }] [] (block 4 2 []))) (fun t => (t.phase, t.hostReqs)) =
        some (.idle, []) := by decide

/-- The last chunk and the last init step end their request, the ones before do not (R25, R170, R192). -/
theorem witness_PhaseMovesOnEdges_last :
    after (step (flushing .flChunk .contrast 0 0 0 [.ok] (block 16 2 fb16))) State.phase = some .flChunk ∧
      after (step (flushing .flChunk .contrast 0 0 0 [.ok] (block 16 1 fb16))) State.phase = some .idle ∧
      after (step { busy .init [.ok] (block 4 2 []) with initStep := 17 }) State.phase = some .init ∧
      after (step { busy .init [.ok] (block 4 2 []) with initStep := 18 }) State.phase = some .idle := by decide

theorem witness_OnlyFlushWritesLastErr :
    after (step (busy .flChunk [.err e1] (block 16 1 fb16))) State.lastErrValid = some true ∧
      (busy .flChunk [.err e1] (block 16 1 fb16)).lastErrValid = false ∧
      after (step { asked [{ op := 4 }] [] (block 16 1 fb16) with lastErrValid := true }) State.lastErrValid =
        some false := by decide

theorem witness_CountersMoveInTheirLoops :
    after (step (flushing .flChunk .contrast 0 0 0 [.ok] (block 32 3 []))) State.x = some 8 ∧
      after (step (busy .init [.ok] (block 4 2 []))) State.initStep = some 1 := by decide

end Sys2Proof.Tests
end

section
/-! SUPPORT. The block invariant (00_scope R6, 10_state R22 to R31, 20_memory R51): every step keeps it, and
in a block that meets it no step stops but for an illegal construction. -/

namespace Sys2Proof.Machine

/-! ### The framebuffer's part -/

theorem fbLen_of_same {s t : State} (e : sameConfig s t) : t.fbLen = s.fbLen := by
  obtain ⟨-, hh, -, -, -, -, hw⟩ := e
  simp only [State.fbLen, State.stride, hh, hw]

/-- The framebuffer's invariant speaks of FB and its length only. -/
theorem FbInv.of_same {s t : State} (h : FbInv s) (e : sameConfig s t) (hfb : t.fb = s.fb) : FbInv t where
  canonical := hfb ▸ h.canonical
  inside := by rw [hfb, fbLen_of_same e]; exact h.inside

/-- A byte stored inside FBLEN keeps the framebuffer's invariant. -/
theorem FbInv.write {s t : State} (h : FbInv s) (e : sameConfig s t) {i : Nat} {v : Byte}
    (hi : i < s.fbLen) (hfb : t.fb = s.fb.write i v) : FbInv t where
  canonical := hfb ▸ Memory.wf_write _ _ _ h.canonical
  inside := by rw [hfb, fbLen_of_same e]; exact Memory.below_write _ _ _ _ h.inside hi

/-- A construction takes no byte beyond FBLEN (70_reset R240). -/
theorem build_fbInv {c : BlockConfig} (contents : List Byte) (h : checkConfig c = none) :
    FbInv (build c contents) where
  canonical := Memory.wf_ofBytes _
  inside := by
    obtain ⟨hw, hh, -⟩ := build_registers contents h
    have hlen : (build c contents).fbLen = bufferSize c.width c.height := by
      rw [State.fbLen, (build_configInv contents h).stride_toNat, hw, hh, bufferSize]
    refine Memory.below_ofBytes _ _ _ ?_
    rw [hlen, List.length_take]
    omega

/-! ### The bus's part -/

/-- With no transaction on the bus only the staging buffer's size is claimed. -/
theorem BusInv.of_offBus {t : State} (hl : t.txbuf.length = 9) (hp : t.phase.onBus = false) : BusInv t where
  staged := hl
  driven h := by simp [hp] at h

/-- A started transaction is the last one emitted, and its bytes are the staged ones (10_state R31). -/
theorem BusInv.startTransaction {s : State} (ph : Phase) {bytes : List Byte} (hl : s.txbuf.length = 9)
    (hb : bytes.length ≤ 9) : BusInv (startTransaction ph bytes s) where
  staged := by simp; omega
  driven _ := by
    have hn : (BitVec.ofNat 4 bytes.length).toNat = bytes.length := by
      rw [BitVec.toNat_ofNat]; exact Nat.mod_eq_of_lt (by omega)
    simp [State.busBytes, hn]

theorem BusInv.startCommand {s : State} (ph : Phase) (tag : Tag) (a b : Byte) (hl : s.txbuf.length = 9) :
    BusInv (startCommand ph tag a b s) :=
  BusInv.startTransaction ph hl ((frame_length_bounds s.params tag a b).2.trans (by decide))

theorem dataFrame_length (p : Params) (d : List Byte) : (dataFrame p d).length = d.length + 1 := rfl

/-- A data frame of eight bytes fills the staging buffer. -/
theorem BusInv.startData {s : State} (ph : Phase) (p : Params) {d : List Byte} (hl : s.txbuf.length = 9)
    (hd : d.length = 8) : BusInv (Machine.startTransaction ph (dataFrame p d) s) :=
  BusInv.startTransaction ph hl (by rw [dataFrame_length, hd])

/-! ### The sequencer's part: one rule for each kind of state a step ends in -/

/-- Back in IDLE: everything at rest, the latch empty. -/
theorem SeqInv.of_idle {t : State} (hp : t.phase = .idle) (hc : t.x = 0 ∧ t.y = 0) (hs : t.initStep = 0)
    (hf : t.faulted = false) (hr : t.req = none) : SeqInv t where
  countersRest _ := hc
  chunkX h := by simp [hp] at h
  chunkY h := by simp [hp] at h
  flushLegal h := by simp [hp, Phase.inFlush] at h
  stepRest _ := hs
  stepRange := by simp [hs]
  faultedPhase := by simp [hf, hp]
  idleNoReq _ := hr
  busyReq h := by simp [hp, Phase.onBus] at h

/-- In FAULT: the counters at rest; the latch is not spoken of (60_exceptions R215). -/
theorem SeqInv.raiseFault {s : State} (c : FaultCause) (hc : s.x = 0 ∧ s.y = 0) (hs : s.initStep = 0) :
    SeqInv (raiseFault c s) where
  countersRest _ := hc
  chunkX h := by cases h
  chunkY h := by cases h
  flushLegal h := by cases h
  stepRest _ := hs
  stepRange := by simp [hs]
  faultedPhase := by simp
  idleNoReq h := by cases h
  busyReq h := by cases h

/-- A transaction outside the two loops, CMD, DATA or a flush's window: the counters at rest. -/
theorem SeqInv.startSingle {s : State} {ph : Phase} (bytes : List Byte)
    (hp : ph = .cmd ∨ ph = .data ∨ ((ph = .flCol ∨ ph = .flRow) ∧ flushable s = true))
    (hc : s.x = 0 ∧ s.y = 0) (hs : s.initStep = 0) (hf : s.faulted = false) (hr : s.req.isSome = true) :
    SeqInv (startTransaction ph bytes s) where
  countersRest _ := hc
  chunkX h := by rcases hp with rfl | rfl | ⟨rfl | rfl, -⟩ <;> cases h
  chunkY h := by rcases hp with rfl | rfl | ⟨rfl | rfl, -⟩ <;> cases h
  flushLegal h := by
    rcases hp with rfl | rfl | ⟨-, hfl⟩
    · cases h
    · cases h
    · exact hfl
  stepRest _ := hs
  stepRange := by simp [hs]
  faultedPhase := by rcases hp with rfl | rfl | ⟨rfl | rfl, -⟩ <;> simp [hf]
  idleNoReq h := by rcases hp with rfl | rfl | ⟨rfl | rfl, -⟩ <;> cases h
  busyReq _ := hr

/-- A chunk of a flush goes out: Y and X inside the geometry, X at a multiple of eight (42_bus R167). -/
theorem SeqInv.startChunk {s : State} (bytes : List Byte) (hfl : flushable s = true)
    (hx : s.x.toNat ≤ s.halfwidth.toNat ∧ s.x.toNat % 8 = 0) (hy : s.y.toNat ≤ s.hmax.toNat)
    (hs : s.initStep = 0) (hf : s.faulted = false) (hr : s.req.isSome = true) :
    SeqInv (startTransaction .flChunk bytes s) where
  countersRest h := absurd rfl h
  chunkX _ := hx
  chunkY _ := hy
  flushLegal _ := hfl
  stepRest _ := hs
  stepRange := by simp [hs]
  faultedPhase := by simp [hf]
  idleNoReq h := by cases h
  busyReq _ := hr

/-- A step of the init script goes out: STEP below 19 (43_init R190). -/
theorem SeqInv.startInit {s : State} (bytes : List Byte) (hc : s.x = 0 ∧ s.y = 0)
    (hs : s.initStep.toNat < 19) (hf : s.faulted = false) (hr : s.req.isSome = true) :
    SeqInv (startTransaction .init bytes s) where
  countersRest _ := hc
  chunkX h := by cases h
  chunkY h := by cases h
  flushLegal h := by cases h
  stepRest h := absurd rfl h
  stepRange := hs
  faultedPhase := by simp [hf]
  idleNoReq h := by cases h
  busyReq _ := hr

theorem SeqInv.notFaulted {s : State} (h : SeqInv s) (hp : s.phase ≠ .fault) : s.faulted = false :=
  Bool.eq_false_iff.2 fun hf => hp (h.faultedPhase.1 hf)

/-- The script has a step for a position exactly below 19. -/
theorem initScript_position {p : Params} {hw hm : Byte} {n : Nat} {c : Tag × Byte × Byte}
    (h : (initScript p hw hm)[n]? = some c) : n < 19 := (List.getElem?_eq_some_iff.1 h).1

/-- Where the chunk loop goes from a legal position: X stays a column of the grid, and only a row's end, which
puts X back to 0, can pass the last row (42_bus R167). -/
theorem advanceChunk_position {u : State} (hc : ConfigInv u)
    (hx : u.x.toNat ≤ u.halfwidth.toNat ∧ u.x.toNat % 8 = 0) (hy : u.y.toNat ≤ u.hmax.toNat) :
    ((advanceChunk u).x.toNat ≤ u.halfwidth.toNat ∧ (advanceChunk u).x.toNat % 8 = 0) ∧
      (u.hmax < (advanceChunk u).y → (advanceChunk u).x = 0) := by
  have hx8 : (u.x + 8).toNat = u.x.toNat + 8 := by
    have := hc.stride_halfwidth
    have := hc.stride_bounds
    rw [BitVec.toNat_add]; simp; omega
  unfold advanceChunk
  split_ifs with hend
  · simp
  · rw [BitVec.lt_def, hx8] at hend
    exact ⟨by rw [hx8]; omega, fun hlt => absurd hy (Nat.not_le.2 hlt)⟩

/-! ### Accepting a request -/

/-- Accepting a request in IDLE keeps the framebuffer's invariant: a pixel write stays inside FBLEN. -/
theorem RequestCase.fbInv {r : Request} {s t : State} (h : RequestCase r s t) (hfb : FbInv s) : FbInv t := by
  have hcfg := h.frame.1
  cases h with
  | pixel x y v ho hr hi ht => exact hfb.write hcfg hi (by rw [ht]; rfl)
  | fault c ho ht | cmd tag a b ho ht | data d ho ht | ignored ho ht | flush ho hf ht | init ho ht =>
    exact hfb.of_same hcfg (by rw [ht]; rfl)

/-- Where accepting a request leaves the sequencer, from a state at rest that has latched it. -/
theorem RequestCase.seqInv {r : Request} {s t : State} (h : RequestCase r s t) (hc : s.x = 0 ∧ s.y = 0)
    (hs : s.initStep = 0) (hf : s.faulted = false) (hr : s.req.isSome = true) : SeqInv t := by
  cases h with
  | fault c ho ht => exact ht ▸ .raiseFault c hc hs
  | cmd tag a b ho ht => exact ht ▸ .startSingle _ (.inl rfl) hc hs hf hr
  | data d ho ht => exact ht ▸ .startSingle _ (.inr (.inl rfl)) hc hs hf hr
  | ignored ho ht | pixel x y v ho hin hi ht => exact ht ▸ .of_idle rfl hc hs hf rfl
  | flush ho hfl ht => exact ht ▸ .startSingle (s := clearErr s) _ (.inr (.inr ⟨.inl rfl, hfl⟩)) hc hs hf hr
  | init ho ht => exact ht ▸ .startInit (s := { s with initStep := 0 }) _ hc (by simp) hf hr

/-- A request puts its own transaction on the bus, or none. -/
theorem RequestCase.busInv {r : Request} {s t : State} (h : RequestCase r s t) (hl : s.txbuf.length = 9) :
    BusInv t := by
  cases h with
  | fault c ho ht | ignored ho ht | pixel x y v ho hin hi ht => exact ht ▸ .of_offBus hl rfl
  | cmd tag a b ho ht => exact ht ▸ .startCommand _ tag a b hl
  | data d ho ht => exact ht ▸ .startData _ _ hl (data8_length d)
  | flush ho hfl ht => exact ht ▸ .startCommand _ _ _ _ hl
  | init ho ht => exact ht ▸ .startCommand _ _ _ _ hl

/-- Accepting a request in IDLE keeps the invariant. -/
theorem RequestCase.blockInv {r : Request} {s t : State} (h : RequestCase r (accept (.request r) s) t)
    (hb : BlockInv s) (hi : s.phase = .idle) : BlockInv t where
  config := hb.config.of_same h.frame.1
  fb := h.fbInv (hb.fb.of_same (by simp [sameConfig]) rfl)
  seq := h.seqInv (hb.seq.countersRest (by simp [hi])) (hb.seq.stepRest (by simp [hi]))
    (hb.seq.notFaulted (by simp [hi])) rfl
  bus := h.busInv hb.bus.staged

/-! ### The bus's answer -/

/-- Recording an error moves nothing of the sequencer (42_bus R169). -/
theorem SeqInv.recordErr {s : State} (h : SeqInv s) (r : Result) : SeqInv (recordErr r s) := by
  cases r with
  | ok => exact h
  | err e => exact { h with }

/-- A window answer that goes on leaves the sequencer as it stood, recorded or not (42_bus R166). -/
theorem SeqInv.of_windowAnswer {r : Result} {s u : State} (h : SeqInv s) (hu : u = s ∨ u = Machine.recordErr r s) :
    SeqInv u ∧ u.phase = s.phase := by
  rcases hu with rfl | rfl
  · exact ⟨h, rfl⟩
  · exact ⟨h.recordErr r, recordErr_phase r s⟩

/-- Where the bus's answer leaves the sequencer. -/
theorem AnswerCase.seqInv {r : Result} {s t : State} (h : AnswerCase r s t) (hcfg : ConfigInv s)
    (hq : SeqInv s) (hb : s.phase.onBus = true) : SeqInv t := by
  have hf : s.faulted = false := hq.notFaulted fun hp => by simp [hp, Phase.onBus] at hb
  have hr := hq.busyReq hb
  cases h with
  | sent hp ht | windowEnds hp e he hpol ht =>
    exact ht ▸ .of_idle rfl (hq.countersRest (by rcases hp with hp | hp <;> simp [hp]))
      (hq.stepRest (by rcases hp with hp | hp <;> simp [hp])) hf rfl
  | rowWindow hp u hu ht =>
    obtain ⟨hqu, hpu⟩ := hq.of_windowAnswer hu
    rw [hp] at hpu
    exact ht ▸ .startSingle _ (.inr (.inr ⟨.inr rfl, hqu.flushLegal (by rw [hpu]; rfl)⟩))
      (hqu.countersRest (by simp [hpu])) (hqu.stepRest (by simp [hpu])) (hqu.notFaulted (by simp [hpu]))
      (hqu.busyReq (by rw [hpu]; rfl))
  | firstChunk hp u hu bytes hl ht =>
    obtain ⟨hqu, hpu⟩ := hq.of_windowAnswer hu
    rw [hp] at hpu
    exact ht ▸ .startChunk (s := { u with y := 0, x := 0 }) _ (hqu.flushLegal (by rw [hpu]; rfl))
      (by simp) (by simp) (hqu.stepRest (by simp [hpu])) (hqu.notFaulted (by simp [hpu]))
      (hqu.busyReq (by rw [hpu]; rfl))
  | nextChunk hp bytes hl hy ht =>
    obtain ⟨hx, -⟩ := advanceChunk_position (u := Machine.recordErr r s) (hcfg.of_same (by simp [sameConfig]))
      (by simpa using hq.chunkX hp) (by simpa using hq.chunkY hp)
    have hfl : flushable s = true := hq.flushLegal (by rw [hp]; rfl)
    exact ht ▸ .startChunk _ (by simpa [flushable] using hfl) (by simpa using hx)
      (by simpa [BitVec.le_def] using hy)
      (by simpa using hq.stepRest (by simp [hp])) (by simpa using hf) (by simpa using hr)
  | flushDone hp hy ht =>
    obtain ⟨-, hx⟩ := advanceChunk_position (u := Machine.recordErr r s) (hcfg.of_same (by simp [sameConfig]))
      (by simpa using hq.chunkX hp) (by simpa using hq.chunkY hp)
    exact ht ▸ .of_idle rfl ⟨hx (by simpa using hy), rfl⟩ (by simpa [respond] using hq.stepRest (by simp [hp]))
      (by simpa [respond] using hf) rfl
  | initStep hp c hc ht =>
    exact ht ▸ .startInit (s := { s with initStep := s.initStep + 1 }) _ (hq.countersRest (by simp [hp]))
      (initScript_position hc) hf hr
  | initDone hp hc ht =>
    exact ht ▸ .of_idle rfl (hq.countersRest (by simp [hp])) rfl hf rfl

/-- An answer puts the next transaction of its request on the bus, or none. -/
theorem AnswerCase.busInv {r : Result} {s t : State} (h : AnswerCase r s t) (hl : s.txbuf.length = 9) :
    BusInv t := by
  cases h with
  | sent hp ht | windowEnds hp e he hpol ht | initDone hp hc ht => exact ht ▸ .of_offBus hl rfl
  | rowWindow hp u hu ht =>
    exact ht ▸ .startCommand _ _ _ _ (by rcases hu with rfl | rfl <;> simpa using hl)
  | firstChunk hp u hu bytes hb ht =>
    refine ht ▸ .startData _ _ ?_ hb
    rcases hu with rfl | rfl <;> simpa using hl
  | nextChunk hp bytes hb hy ht => exact ht ▸ .startData _ _ (by simpa using hl) hb
  | flushDone hp hy ht => exact ht ▸ .of_offBus (by simpa [respond] using hl) rfl
  | initStep hp c hc ht => exact ht ▸ .startCommand _ _ _ _ hl

/-- The bus's answer keeps the invariant. -/
theorem AnswerCase.blockInv {r : Result} {s t : State} (h : AnswerCase r s t) (hb : BlockInv s)
    (hon : s.phase.onBus = true) : BlockInv t := by
  obtain ⟨hcfg, hfb, -⟩ := h.frame
  exact ⟨hb.config.of_same hcfg, hb.fb.of_same hcfg hfb, h.seqInv hb.config hb.seq hon, h.busInv hb.bus.staged⟩

/-! ### Every step -/

/-- The invariant says nothing of the inputs that wait at the ports, nor of the encoder's output. -/
theorem BlockInv.of_ports {s : State} (h : BlockInv s) (answers : List Result) (query : Option EncQuery)
    (out : EncOut) : BlockInv { s with busIn := answers, encPort := query, encOut := out } where
  config := { h.config with }
  fb := { h.fb with }
  seq := { h.seq with }
  bus := { h.bus with }

/-- Settles O52, by what a step can do: a construction builds an invariant block, a query and a wait touch
nothing the invariant speaks of, a request and an answer keep each of its four parts. -/
theorem stepKeepsInvariant : Obligations.StepKeepsInvariant := by
  intro s t h hstep
  cases step_cases hstep with
  | reset ev hp hc ht =>
    subst ht
    exact ⟨(build_configInv ev.contents hc).of_same (by simp [sameConfig]),
      (build_fbInv ev.contents hc).of_same (by simp [sameConfig]) rfl,
      .of_idle rfl ⟨rfl, rfl⟩ rfl rfl rfl, .of_offBus rfl rfl⟩
  | encoder hr q hp out ht => exact ht ▸ h.of_ports s.busIn none out
  | wait hr he ht => exact ht ▸ h
  | request hr he hi r rest hq hc => exact hc.blockInv h hi
  | answer hr he hon r rest hq hc => exact hc.blockInv (h.of_ports rest s.encPort s.encOut) hon

/-! ### Which steps stop

The only operations that can fail are the framebuffer accesses of a pixel write and of a chunk (00_scope R11),
and a construction (60_exceptions R214). -/

theorem writePixel_ne_refused (x y v : Byte) (s : State) (why : Refusal) :
    writePixel x y v s ≠ .refused why := by
  unfold writePixel
  split
  · split
    · simp
    · split <;> simp
  · simp

theorem startChunk_ne_refused (s : State) (why : Refusal) : startChunk s ≠ .refused why := by
  unfold startChunk
  split <;> simp

/-- In a legal geometry a pixel write is complete in its step, in range or not (41_pixel R140, R141). -/
theorem writePixel_next {s : State} (h : ConfigInv s) (x y v : Byte) : ∃ t, writePixel x y v s = .next t := by
  cases hr : inRange s x y with
  | true => exact ⟨_, writePixel_of_inRange h v hr⟩
  | false => exact ⟨_, writePixel_of_outOfRange v hr⟩

/-- A decoded request in IDLE answers a next state or is a pixel write. -/
theorem exec_request_next_or_pixel {s : State} {r : Request} {i : Instr} (hi : s.phase = .idle)
    (hd : decodeRequest r = .ok i) :
    (∃ t, exec i s = .next t) ∨ ∃ x y v, exec i s = writePixel x y v s := by
  unfold decodeRequest at hd
  split at hd <;> cases hd
  · left
    simp only [exec, execSendCmd, whenReady_of_idle hi]
    split <;> exact ⟨_, rfl⟩
  · exact .inl ⟨_, whenReady_of_idle hi _⟩
  · exact .inr ⟨_, _, _, whenReady_of_idle hi _⟩
  · simp only [exec, execDrawPixel, whenReady_of_idle hi]
    split
    · exact .inr ⟨_, _, _, rfl⟩
    · exact .inl ⟨_, rfl⟩
  · left
    simp only [exec, execFlush, whenReady_of_idle hi]
    split <;> exact ⟨_, rfl⟩
  · exact .inl ⟨_, whenReady_of_idle hi _⟩

/-- A bus answer gives a next state, or the chunk loop reads its next chunk. -/
theorem answered_next_or_chunk (r : Result) (s : State) :
    (∃ t, answered r s = .next t) ∨
      (s.phase = .flRow ∧ ∃ u, (u = s ∨ u = recordErr r s) ∧
        answered r s = startChunk { u with y := 0, x := 0 }) ∨
      (s.phase = .flChunk ∧ answered r s = nextChunkOrDone (advanceChunk (recordErr r s))) := by
  cases hp : s.phase with
  | flRow =>
    rw [answered_of_flRow hp, flushRowAnswered]
    cases hw : windowAnswer r s with
    | inl resp => exact .inl ⟨_, rfl⟩
    | inr u => exact .inr (.inl ⟨rfl, u, windowAnswer_inr hw, rfl⟩)
  | flChunk => exact .inr (.inr ⟨rfl, answered_of_flChunk hp⟩)
  | flCol =>
    rw [answered_of_flCol hp, flushColAnswered]
    cases windowAnswer r s <;> exact .inl ⟨_, rfl⟩
  | idle | cmd | data | init | fault => exact .inl (by simp only [answered, hp]; exact ⟨_, rfl⟩)

/-- A query at the encoder port answers a next state, its tag reserved or not (10_state R35). -/
theorem step_of_query {s : State} {q : EncQuery} (hr : s.resetPort = none) (he : s.encPort = some q) :
    ∃ t, step s = .next t := by
  simp only [step, hr, fetch, he, decode, decodeQuery]
  cases Tag.ofCode q.tag with
  | some tag => exact ⟨_, exec_instrOfTag ..⟩
  | none => exact ⟨_, rfl⟩

/-- Everything a step without a construction can do: it answers a next state, or it is a pixel write in IDLE,
or it handles the bus's answer. -/
theorem step_next_or_pixel_or_answer {s : State} (hr : s.resetPort = none) :
    (∃ t, step s = .next t) ∨
      (∃ r x y v, step s = writePixel x y v (accept (.request r) s)) ∨
      ∃ r rest, step s = answered r { s with busIn := rest } := by
  cases he : s.encPort with
  | some q => exact .inl (step_of_query hr he)
  | none =>
    by_cases hi : s.phase = .idle
    · cases hq : s.hostReqs with
      | nil => exact .inl ⟨s, by simp [step, hr, fetch, he, hq, State.reqReady, hi, advance, Phase.onBus]⟩
      | cons r rest =>
        cases hd : decodeRequest r with
        | ok i =>
          rw [step_of_request ⟨hr, he⟩ hi hq hd]
          rcases exec_request_next_or_pixel (s := accept (.request r) s) hi hd with hn | ⟨x, y, v, hw⟩
          · exact .inl hn
          · exact .inr (.inl ⟨r, x, y, v, hw⟩)
        | error e =>
          obtain ⟨rfl, -⟩ := decodeRequest_error hd
          exact .inl ⟨raiseFault .badOp (accept (.request r) s), by
            simp [step, hr, fetch, he, hq, State.reqReady, hi, decode, hd, rejectWord]⟩
    · have hf : fetch s = none := by simp [fetch, he, State.reqReady, hi]
      by_cases hon : s.phase.onBus = true
      · cases hq : s.busIn with
        | nil => exact .inl ⟨s, by simp [step, hr, hf, advance, hon, hq]⟩
        | cons r rest => exact .inr (.inr ⟨r, rest, by rw [step_of_answer ⟨hr, he⟩ hon hq, he]⟩)
      · exact .inl ⟨s, by simp [step, hr, hf, advance, hon]⟩

/-- In an invariant block every answer of the bus gives a next state: the chunks the flush reads lie inside
the framebuffer. -/
theorem answered_next {s : State} (h : BlockInv s) (r : Result) : ∃ t, answered r s = .next t := by
  rcases answered_next_or_chunk r s with hn | ⟨hp, u, hu, ha⟩ | ⟨hp, ha⟩
  · exact hn
  · have hfl : s.stride.toNat % 8 = 0 := by simpa [flushable] using h.seq.flushLegal (by rw [hp]; rfl)
    have hs := h.config.stride_halfwidth
    have hcfg : sameConfig s { u with y := 0, x := 0 } := by rcases hu with rfl | rfl <;> simp [sameConfig]
    have hw : u.halfwidth = s.halfwidth := by rcases hu with rfl | rfl <;> simp
    rw [ha]
    exact ⟨_, startChunk_of_inside (h.config.of_same hcfg) (by simp [hw]; omega) (by simp)⟩
  · have hfl : flushable s = true := h.seq.flushLegal (by rw [hp]; rfl)
    rw [ha, nextChunkOrDone_advance (h.config.of_same (by simp [sameConfig])) (by simpa [flushable] using hfl)
      (by simpa using h.seq.chunkX hp) (by simpa using h.seq.chunkY hp)]
    split_ifs <;> exact ⟨_, rfl⟩

/-- Progress: without a construction an invariant block always answers a next state. -/
theorem step_next {s : State} (h : BlockInv s) (hr : s.resetPort = none) : ∃ t, step s = .next t := by
  rcases step_next_or_pixel_or_answer hr with hn | ⟨r, x, y, v, hw⟩ | ⟨r, rest, ha⟩
  · exact hn
  · rw [hw]
    exact writePixel_next (h.config.of_same (by simp [sameConfig])) x y v
  · rw [ha]
    exact answered_next (h.of_ports rest s.encPort s.encOut) r

theorem answered_ne_refused (r : Result) (s : State) (why : Refusal) : answered r s ≠ .refused why := by
  rcases answered_next_or_chunk r s with ⟨t, ht⟩ | ⟨-, u, -, ha⟩ | ⟨-, ha⟩
  · simp [ht]
  · rw [ha]
    exact startChunk_ne_refused _ why
  · rw [ha, nextChunkOrDone]
    split
    · simp
    · exact startChunk_ne_refused _ why

/-- Without a construction no step is refused, in any state. -/
theorem step_ne_refused {s : State} (hr : s.resetPort = none) (why : Refusal) : step s ≠ .refused why := by
  rcases step_next_or_pixel_or_answer hr with ⟨t, ht⟩ | ⟨r, x, y, v, hw⟩ | ⟨r, rest, ha⟩
  · simp [ht]
  · rw [hw]
    exact writePixel_ne_refused x y v _ why
  · rw [ha]
    exact answered_ne_refused r _ why

/-- A construction event builds a block, or is refused by the name of its first violation of 00_scope R6. -/
theorem takeReset_next_or_refused (ev : ResetEvent) (s : State) :
    (∃ t, takeReset ev s = .next t) ∨
      ∃ why, checkConfig ev.config = some why ∧ takeReset ev s = .refused why := by
  unfold takeReset construct
  cases checkConfig ev.config with
  | none => exact .inl ⟨_, rfl⟩
  | some why => exact .inr ⟨why, rfl, rfl⟩

theorem step_of_construction {s : State} {ev : ResetEvent} (h : s.resetPort = some ev) :
    step s = takeReset ev s := by
  simp [step, h]

/-- Settles O53: an invariant block makes progress without a construction, and a construction never faults and
is refused by name only. -/
theorem noStepStops : Obligations.NoStepStops := by
  refine ⟨fun s h f hf => ?_, fun s why hs => ?_⟩
  · cases hr : s.resetPort with
    | none =>
      obtain ⟨t, ht⟩ := step_next h hr
      simp [ht] at hf
    | some ev =>
      rw [step_of_construction hr] at hf
      rcases takeReset_next_or_refused ev s with ⟨t, ht⟩ | ⟨why, -, ht⟩ <;> simp [ht] at hf
  · cases hr : s.resetPort with
    | none => exact absurd hs (step_ne_refused hr why)
    | some ev =>
      rw [step_of_construction hr] at hs
      rcases takeReset_next_or_refused ev s with ⟨t, ht⟩ | ⟨name, hc, ht⟩
      · simp [ht] at hs
      · rw [ht] at hs
        cases hs
        exact ⟨ev, rfl, hc⟩

end Sys2Proof.Machine
end

section
/-! SUPPORT. The state's family (10_state R20 to R37): the state after reset, when the block waits, and what every
step without a construction keeps of PHASE, the bus, the responses, the counters, LAST_ERR and FAULTED. -/

namespace Sys2Proof.Machine

/-! ### The state after reset -/

/-- The default configuration of 00_scope R6, whichever control byte the revision uses. -/
theorem checkConfig_default : checkConfig ⟨128, 128, 0x3C, resetParams⟩ = none := by
  refine (checkConfig_eq_none_iff _).2 ⟨by decide, by decide, ?_, ?_, rfl, rfl⟩ <;>
    cases hz : Config.ctrlCmdIsZero <;> simp [resetParams, Config.revision, Config.ctrlCmd, hz, defaultCtrlData]

/-- The reset state is the block built with every default over nothing listed (10_state R37). -/
theorem build_default : build ⟨128, 128, 0x3C, resetParams⟩ [] = State.reset := rfl

/-- Settles O50: the default configuration is legal, and what it builds is the reset state. -/
theorem resetIsDefaultConstruction : Obligations.ResetIsDefaultConstruction := by
  refine ⟨?_, rfl, rfl, rfl, rfl, rfl, rfl, rfl, rfl, by decide, by decide, rfl⟩
  rw [construct, checkConfig_default, build_default]

/-- Settles O51: the reset state is a legal construction, and it is idle. -/
theorem resetMeetsInvariant : Obligations.ResetMeetsInvariant where
  config := build_configInv [] checkConfig_default
  fb := build_fbInv [] checkConfig_default
  seq := .of_idle rfl ⟨rfl, rfl⟩ rfl rfl rfl
  bus := .of_offBus rfl rfl

/-! ### What a step takes, and when it waits -/

theorem reqReady_iff (s : State) : s.reqReady = true ↔ s.phase = .idle := by simp [State.reqReady]

theorem fetch_of_query {s : State} {q : EncQuery} (he : s.encPort = some q) : fetch s = some (.query q) := by
  simp [fetch, he]

/-- In IDLE the request port is read where the encoder port holds nothing. -/
theorem fetch_of_idle {s : State} (he : s.encPort = none) (hi : s.phase = .idle) :
    fetch s = s.hostReqs.head?.map .request := by
  simp [fetch, he, (reqReady_iff s).2 hi]

/-- Outside IDLE no request is read (10_state R34). -/
theorem fetch_of_busy {s : State} (he : s.encPort = none) (hi : s.phase ≠ .idle) : fetch s = none := by
  simp [fetch, he, State.reqReady, hi]

theorem Phase.ne_idle_of_onBus {p : Phase} (h : p.onBus = true) : p ≠ .idle := by
  rintro rfl
  cases h

/-- Settles O13: `step` runs what `fetch` reads and `decode` makes of it, and each port is read and consumed
as its own equation says. -/
theorem stepRunsDecodedInstruction : Obligations.StepRunsDecodedInstruction := by
  refine ⟨fun s w i hr hf hd => ?_, fun s q he => fetch_of_query he, fun s r rest he hi hq => ?_,
    fun _ _ => rfl, fun _ _ => rfl⟩
  · simp only [step, hr, hf, hd]
  · simp [fetch_of_idle he hi, hq]

/-- Settles O15: neither port holds a word, so the step is the sequencer's, which has nothing to take. -/
theorem blockWaits : Obligations.BlockWaits := by
  intro s ⟨hr, he⟩
  refine ⟨fun hon hb => ?_, fun hi hq => ?_⟩
  · have hf : fetch s = none := fetch_of_busy he (Phase.ne_idle_of_onBus hon)
    simp [step, hr, hf, advance, hon, hb]
  · have hf : fetch s = none := by simp [fetch_of_idle he hi, hq]
    simp [step, hr, hf, advance, hi, Phase.onBus]

/-! ### Requests wait outside IDLE -/

/-- Every request asks whether the block is ready before anything else (10_state R34). -/
theorem exec_request_of_busy {s : State} {i : Instr} (h : isRequest i = true) (hi : s.phase ≠ .idle) :
    exec i s = .next s := by
  cases i with
  | sendCmd | sendData | setPixel | drawPixel | flush | init => exact whenReady_of_busy hi _
  | _ => cases h

/-- Outside IDLE a step, a construction too, leaves the host's requests as they are. -/
theorem hostReqs_of_step_busy {s t : State} (hi : s.phase ≠ .idle) (h : step s = .next t) :
    t.hostReqs = s.hostReqs := by
  cases step_cases h with
  | reset ev hp hc ht | encoder hr q hp out ht | wait hr he ht => exact ht ▸ rfl
  | request hr he hidle => exact absurd hidle hi
  | answer hr he hon r rest hq hc =>
    obtain ⟨-, -, -, -, hreqs, -⟩ := hc.frame
    exact hreqs

/-- Settles O14: a request tests `req_ready` first, and a step reads the request port in IDLE only. -/
theorem requestsWaitWhileBusy : Obligations.RequestsWaitWhileBusy :=
  ⟨fun _ _ h hi => exec_request_of_busy h hi, fun _ _ hi h => hostReqs_of_step_busy hi h, reqReady_iff⟩

/-! ### A step without a construction

Seen from the block, a query at the encoder port and a wait are one case: nothing but that port moves. The rest
is the acceptance of a request or the bus's answer. -/

/-- What a step without a construction can do. -/
inductive BlockStep (s t : State) : Prop where
  | rests (query : Option EncQuery) (out : EncOut) (ht : t = { s with encPort := query, encOut := out })
  | request (hi : s.phase = .idle) (r : Request) (rest : List Request) (hq : s.hostReqs = r :: rest)
      (hc : RequestCase r (accept (.request r) s) t)
  | answer (hon : s.phase.onBus = true) (r : Result) (rest : List Result) (hq : s.busIn = r :: rest)
      (ha : answered r { s with busIn := rest } = .next t) (hc : AnswerCase r { s with busIn := rest } t)

theorem blockStep_of_step {s t : State} (hr : s.resetPort = none) (h : step s = .next t) : BlockStep s t := by
  cases step_cases h with
  | reset ev hp => simp [hr] at hp
  | encoder _ q hp out ht => exact .rests none out ht
  | wait _ he ht => exact .rests s.encPort s.encOut ht
  | request _ he hi r rest hq hc => exact .request hi r rest hq hc
  | answer _ he hon r rest hq hc =>
    exact .answer hon r rest hq (by rw [← step_of_answer ⟨hr, he⟩ hon hq, h]) hc

/-! ### The configuration -/

theorem BlockStep.sameConfig {s t : State} (h : BlockStep s t) : sameConfig s t := by
  cases h with
  | rests query out ht => simp [ht, Machine.sameConfig]
  | request hi r rest hq hc => exact hc.frame.1
  | answer hon r rest hq ha hc => exact hc.frame.1

/-- Settles O56: no request and no answer writes a configuration register, and SIZE reads two of them. -/
theorem configurationNeverChanges : Obligations.ConfigurationNeverChanges :=
  ⟨fun _ _ hr h => (blockStep_of_step hr h).sameConfig, fun _ => rfl⟩

/-! ### FAULTED -/

/-- A request raises FAULTED or leaves it (10_state R28). -/
theorem RequestCase.faulted {r : Request} {s t : State} (h : RequestCase r s t) :
    t.faulted = true ∨ t.faulted = s.faulted := by
  cases h with
  | fault c ho ht => exact .inl (by rw [ht]; rfl)
  | cmd tag a b ho ht | data d ho ht | ignored ho ht | pixel x y v ho hr hi ht | flush ho hf ht | init ho ht =>
    exact .inr (by rw [ht]; rfl)

/-- Settles O46: only a request writes FAULTED, and it writes 1. -/
theorem faultedIsSticky : Obligations.FaultedIsSticky := by
  intro s t hr hs h
  cases blockStep_of_step hr h with
  | rests query out ht => rw [ht]; exact hs
  | request hi r rest hq hc => exact hc.faulted.elim id fun hf => hf.trans hs
  | answer hon r rest hq ha hc =>
    obtain ⟨-, -, hf, -⟩ := hc.frame
    exact hf.trans hs

/-! ### Transactions and responses: an answer starts the next transaction or completes the request -/

/-- From `s` to `t` one legal transaction goes on the bus, and no response is given. -/
structure StartsTransaction (s t : State) : Prop where
  emitted : ∃ tr, t.busLog = s.busLog ++ [tr] ∧ legalTransaction s tr
  driven : t.phase.onBus = true
  silent : t.respLog = s.respLog

/-- From `s` to `t` the request is completed with one response, and no transaction is emitted. -/
structure CompletesRequest (r : Result) (s t : State) : Prop where
  responded : t.respLog = s.respLog ++ [r]
  idle : t.phase = .idle
  latchEmpty : t.req = none
  quiet : t.busLog = s.busLog

/-- Two states with one configuration and one record of both observables. -/
structure SameRecord (s u : State) : Prop where
  config : sameConfig s u
  busLog : u.busLog = s.busLog
  respLog : u.respLog = s.respLog

theorem SameRecord.refl (s : State) : SameRecord s s := ⟨⟨rfl, rfl, rfl, rfl, rfl, rfl, rfl⟩, rfl, rfl⟩

/-- Recording a window's error writes LAST_ERR only. -/
theorem SameRecord.of_windowAnswer {r : Result} {s u : State} (hu : u = s ∨ u = recordErr r s) :
    SameRecord s u := by
  rcases hu with rfl | rfl
  · exact .refl u
  · exact ⟨by simp [sameConfig], by simp, by simp⟩

theorem SameRecord.advanceChunk (r : Result) (s : State) : SameRecord s (advanceChunk (recordErr r s)) :=
  ⟨by simp [sameConfig], by simp, by simp⟩

/-- The frame of a tag is a legal transaction, its own opcode byte behind the command control byte
(30_encoding R80, R91). -/
theorem StartsTransaction.startCommand {s u : State} {ph : Phase} (tag : Tag) (a b : Byte)
    (h : SameRecord s u) (hp : ph.onBus = true) : StartsTransaction s (startCommand ph tag a b u) where
  emitted := by
    obtain ⟨-, -, haddr, hparams, -⟩ := h.config
    refine ⟨⟨s.cfgAddr, (encodeCommand s.params tag a b).frame⟩, ?_, rfl,
      .inl ⟨tag, a, b, rfl, frame_length .., ?_, ?_⟩⟩
    · simp [Machine.startCommand, h.busLog, haddr, hparams]
    all_goals cases tag <;> rfl
  driven := hp
  silent := h.respLog

/-- Eight bytes behind the data control byte are a legal transaction (30_encoding R80). -/
theorem StartsTransaction.startData {s u : State} {ph : Phase} {data : List Byte} (h : SameRecord s u)
    (hp : ph.onBus = true) (hl : data.length = 8) :
    StartsTransaction s (startTransaction ph (dataFrame s.params data) u) where
  emitted := by
    obtain ⟨-, -, haddr, -⟩ := h.config
    exact ⟨⟨s.cfgAddr, dataFrame s.params data⟩, by simp [h.busLog, haddr], rfl, .inr ⟨data, hl, rfl⟩⟩
  driven := hp
  silent := h.respLog

theorem CompletesRequest.respond {s u : State} (r : Result) (h : SameRecord s u) :
    CompletesRequest r s (respond r u) where
  responded := by simp [h.respLog]
  idle := rfl
  latchEmpty := rfl
  quiet := h.busLog

/-- Accepting a request raises a fault in silence, starts its first transaction, or completes a pixel with OK. -/
theorem RequestCase.faults_or_starts_or_completes {r : Request} {s t : State} (h : RequestCase r s t) :
    (∃ c, t = raiseFault c s) ∨ StartsTransaction s t ∨ CompletesRequest .ok s t := by
  cases h with
  | fault c ho ht => exact .inl ⟨c, ht⟩
  | cmd tag a b ho ht => exact .inr (.inl (ht ▸ .startCommand tag a b (.refl s) rfl))
  | data d ho ht => exact .inr (.inl (ht ▸ .startData (.refl s) rfl (data8_length d)))
  | ignored ho ht => exact .inr (.inr (ht ▸ .respond .ok (.refl s)))
  | pixel x y v ho hr hi ht => exact .inr (.inr (ht ▸ .respond .ok { SameRecord.refl s with }))
  | flush ho hf ht => exact .inr (.inl (ht ▸ .startCommand _ _ _ { SameRecord.refl s with } rfl))
  | init ho ht => exact .inr (.inl (ht ▸ .startCommand _ _ _ { SameRecord.refl s with } rfl))

/-- The bus's answer starts the request's next transaction, or completes the request; INIT completes with OK
(43_init R192). -/
theorem AnswerCase.starts_or_completes {r : Result} {s t : State} (h : AnswerCase r s t) :
    StartsTransaction s t ∨ ∃ resp, CompletesRequest resp s t ∧ (s.phase = .init → resp = .ok) := by
  cases h with
  | sent hp ht => exact .inr ⟨r, ht ▸ .respond r (.refl s), fun hi => by simp [hi] at hp⟩
  | windowEnds hp e hr hpol ht => exact .inr ⟨.err e, ht ▸ .respond _ (.refl s), fun hi => by simp [hi] at hp⟩
  | rowWindow hp u hu ht => exact .inl (ht ▸ .startCommand _ _ _ (.of_windowAnswer hu) rfl)
  | firstChunk hp u hu bytes hb ht =>
    exact .inl (ht ▸ .startData (u := { u with y := 0, x := 0 }) { SameRecord.of_windowAnswer hu with } rfl hb)
  | nextChunk hp bytes hb hy ht => exact .inl (ht ▸ .startData (.advanceChunk r s) rfl hb)
  | flushDone hp hy ht =>
    exact .inr ⟨flushResult (recordErr r s), ht ▸ .respond _ { SameRecord.advanceChunk r s with },
      fun hi => by simp [hi] at hp⟩
  | initStep hp c hc ht => exact .inl (ht ▸ .startCommand _ _ _ { SameRecord.refl s with } rfl)
  | initDone hp hc ht => exact .inr ⟨.ok, ht ▸ .respond .ok { SameRecord.refl s with }, fun _ => rfl⟩

/-- Settles O55: a step emits a transaction only where an accepted request or a taken answer starts one. -/
theorem oneLegalTransactionAtATime : Obligations.OneLegalTransactionAtATime := by
  intro s t hr h
  cases blockStep_of_step hr h with
  | rests query out ht => exact .inl (by rw [ht])
  | request hi r rest hq hc =>
    rcases hc.faults_or_starts_or_completes with ⟨c, hf⟩ | hs | hd
    · exact .inl (by rw [hf]; rfl)
    · obtain ⟨tr, hlog, hlegal⟩ := hs.emitted
      exact .inr ⟨tr, hlog, hlegal, hs.driven, .inl hi⟩
    · exact .inl hd.quiet
  | answer hon r rest hq ha hc =>
    rcases hc.starts_or_completes with hs | ⟨resp, hd, -⟩
    · obtain ⟨tr, hlog, hlegal⟩ := hs.emitted
      obtain ⟨-, -, -, -, -, hbus, -⟩ := hc.frame
      exact .inr ⟨tr, hlog, hlegal, hs.driven, .inr ⟨hon, by simp [hq], by simp [hq, hbus]⟩⟩
    · exact .inl hd.quiet

/-- Settles O59: a step responds only where a pixel request or an answer completes the request. -/
theorem responsesCompleteTheRequest : Obligations.ResponsesCompleteTheRequest := by
  intro s t hr h
  cases blockStep_of_step hr h with
  | rests query out ht => exact .inl (by rw [ht])
  | request hi r rest hq hc =>
    rcases hc.faults_or_starts_or_completes with ⟨c, hf⟩ | hs | hd
    · exact .inl (by rw [hf]; rfl)
    · exact .inl hs.silent
    · exact .inr ⟨.ok, hd.responded, hd.idle, hd.latchEmpty, fun _ => rfl⟩
  | answer hon r rest hq ha hc =>
    rcases hc.starts_or_completes with hs | ⟨resp, hd, hok⟩
    · exact .inl hs.silent
    · refine .inr ⟨resp, hd.responded, hd.idle, hd.latchEmpty, fun hp => ?_⟩
      exact hok (hp.resolve_left (Phase.ne_idle_of_onBus hon))

/-! ### LAST_ERR -/

/-- Accepting a FLUSH clears LAST_ERR.valid; no other request touches LAST_ERR (42_bus R164). -/
theorem RequestCase.lastErr {r : Request} {s t : State} (h : RequestCase r s t) :
    t.lastErr = s.lastErr ∧
      (t.lastErrValid = s.lastErrValid ∨ (r.op = 4 ∧ t.phase = .flCol ∧ t.lastErrValid = false)) := by
  obtain ⟨-, -, -, -, -, -, -, -, herr⟩ := h.frame
  refine ⟨herr, ?_⟩
  cases h with
  | flush ho hf ht => exact .inr ⟨ho, by rw [ht]; exact ⟨rfl, rfl⟩⟩
  | fault c ho ht | cmd tag a b ho ht | data d ho ht | ignored ho ht | pixel x y v ho hr hi ht | init ho ht =>
    exact .inl (by rw [ht]; rfl)

/-- Outside a flush no answer is recorded (43_init R193, 42_bus R161). -/
theorem AnswerCase.lastErr {r : Result} {s t : State} (h : AnswerCase r s t) :
    s.phase.inFlush = true ∨ (t.lastErrValid = s.lastErrValid ∧ t.lastErr = s.lastErr) := by
  cases h with
  | windowEnds hp e hr hpol ht => exact .inl (by rcases hp with hp | hp <;> rw [hp] <;> rfl)
  | rowWindow hp | firstChunk hp | nextChunk hp | flushDone hp => exact .inl (by rw [hp]; rfl)
  | sent hp ht | initStep hp c hc ht | initDone hp hc ht => exact .inr (by rw [ht]; exact ⟨rfl, rfl⟩)

/-- Settles O57: of the requests only a FLUSH writes LAST_ERR, and of the answers only a flush's. -/
theorem onlyFlushWritesLastErr : Obligations.OnlyFlushWritesLastErr := by
  intro s t hr h hne
  cases blockStep_of_step hr h with
  | rests query out ht => simp [ht] at hne
  | request hi r rest hq hc =>
    obtain ⟨herr, hsame | ⟨hop, hphase, hvalid⟩⟩ := hc.lastErr
    · exact (hne.elim (· hsame) (· herr)).elim
    · exact .inr ⟨hi, hphase, hvalid, herr, r, rest, hq, hop⟩
  | answer hon r rest hq ha hc =>
    refine hc.lastErr.imp_right fun ⟨hvalid, herr⟩ => ?_
    exact (hne.elim (· hvalid) (· herr)).elim

/-! ### The counters -/

/-- Only INIT's acceptance writes STEP (43_init R195). -/
theorem RequestCase.initStep_eq_or_init {r : Request} {s t : State} (h : RequestCase r s t) :
    t.initStep = s.initStep ∨ t.phase = .init := by
  cases h with
  | init ho ht => exact .inr (by rw [ht]; rfl)
  | fault c ho ht | cmd tag a b ho ht | data d ho ht | ignored ho ht | pixel x y v ho hr hi ht | flush ho hf ht =>
    exact .inl (by rw [ht]; rfl)

/-- Only the answers of the row window and of a chunk write Y and X (42_bus R167). -/
theorem AnswerCase.position {r : Result} {s t : State} (h : AnswerCase r s t) :
    (s.phase = .flRow ∨ s.phase = .flChunk) ∨ (t.y = s.y ∧ t.x = s.x) := by
  cases h with
  | firstChunk hp => exact .inl (.inl hp)
  | nextChunk hp | flushDone hp => exact .inl (.inr hp)
  | rowWindow hp u hu ht => rcases hu with rfl | rfl <;> exact .inr (by simp [ht, startCommand])
  | sent hp ht | windowEnds hp e hr hpol ht | initStep hp c hc ht | initDone hp hc ht =>
    exact .inr (by rw [ht]; exact ⟨rfl, rfl⟩)

/-- Only the answer of an init step writes STEP (43_init R191). -/
theorem AnswerCase.init_or_initStep_eq {r : Result} {s t : State} (h : AnswerCase r s t) :
    s.phase = .init ∨ t.initStep = s.initStep := by
  cases h with
  | initStep hp | initDone hp => exact .inl hp
  | rowWindow hp u hu ht | firstChunk hp u hu bytes hb ht =>
    rcases hu with rfl | rfl <;> exact .inr (by simp [ht, startCommand])
  | nextChunk hp bytes hb hy ht | flushDone hp hy ht => exact .inr (by simp [ht])
  | sent hp ht | windowEnds hp e hr hpol ht => exact .inr (by rw [ht]; rfl)

/-- Settles O58: each counter is written by the requests and answers of its own loop. -/
theorem countersMoveInTheirLoops : Obligations.CountersMoveInTheirLoops := by
  intro s t hr h
  cases blockStep_of_step hr h with
  | rests query out ht => simp [ht]
  | request hi r rest hq hc =>
    obtain ⟨-, -, -, -, -, -, hy, hx, -⟩ := hc.frame
    exact ⟨fun hne => (hne.elim (· hy) (· hx)).elim,
      fun hne => .inr ⟨hi, hc.initStep_eq_or_init.resolve_left hne⟩⟩
  | answer hon r rest hq ha hc =>
    exact ⟨fun hne => hc.position.resolve_right fun ⟨hy, hx⟩ => hne.elim (· hy) (· hx),
      fun hne => .inl (hc.init_or_initStep_eq.resolve_right hne)⟩

/-! ### PHASE -/

theorem phaseEdge_self (p : Phase) : phaseEdge p p = true := by cases p <;> rfl

/-- A request accepted in IDLE takes PHASE along an edge of 10_state R25. -/
theorem RequestCase.phaseEdge {r : Request} {s t : State} (h : RequestCase r s t) :
    phaseEdge .idle t.phase = true := by
  cases h with
  | fault c ho ht | cmd tag a b ho ht | data d ho ht | ignored ho ht | pixel x y v ho hr hi ht
  | flush ho hf ht | init ho ht => rw [ht]; rfl

/-- A request that takes the block out of IDLE stays latched until its response (10_state R29). -/
theorem RequestCase.req_latched {r : Request} {s t : State} (h : RequestCase r s t) (hp : t.phase ≠ .idle) :
    t.req = s.req := by
  cases h with
  | ignored ho ht | pixel x y v ho hr hi ht => exact absurd (by rw [ht]; rfl) hp
  | fault c ho ht | cmd tag a b ho ht | data d ho ht | flush ho hf ht | init ho ht => rw [ht]; rfl

/-- The two pixel requests, and no others, are complete in the step that accepts them (41_pixel R140). -/
theorem RequestCase.idle_iff {r : Request} {s t : State} (h : RequestCase r s t) :
    t.phase = .idle ↔ r.op = 2 ∨ r.op = 3 := by
  cases h with
  | ignored ho ht | pixel x y v ho hr hi ht => exact iff_of_true (by rw [ht]; rfl) ho
  | cmd tag a b ho ht | data d ho ht | flush ho hf ht | init ho ht =>
    exact iff_of_false (by rw [ht]; exact Phase.noConfusion) (by rw [ho]; decide)
  | fault c ho ht =>
    refine iff_of_false (by rw [ht]; exact Phase.noConfusion) ?_
    rintro (h2 | h2) <;> simp [h2] at ho

/-- The bus's answer takes PHASE along an edge of 10_state R25. -/
theorem AnswerCase.phaseEdge {r : Result} {s t : State} (h : AnswerCase r s t) :
    phaseEdge s.phase t.phase = true := by
  cases h with
  | sent hp ht | windowEnds hp e hr hpol ht => rcases hp with hp | hp <;> rw [hp, ht] <;> rfl
  | rowWindow hp u hu ht | firstChunk hp u hu bytes hb ht | nextChunk hp bytes hb hy ht | flushDone hp hy ht
  | initStep hp c hc ht | initDone hp hc ht => rw [hp, ht]; rfl

/-- A window's answer ends the flush only under ABORT, on an error (42_bus R166). -/
theorem AnswerCase.window_to_idle {r : Result} {s t : State} (h : AnswerCase r s t)
    (hp : s.phase = .flCol ∨ s.phase = .flRow) (ht : t.phase = .idle) :
    s.params.windowErrPolicy = .abort ∧ ∃ e, r = .err e := by
  cases h with
  | windowEnds _ e hr hpol _ => exact ⟨hpol, e, hr⟩
  | rowWindow _ u hu hs | firstChunk _ u hu bytes hb hs => rw [hs] at ht; cases ht
  | sent hq => rcases hq with hq | hq <;> simp [hq] at hp
  | nextChunk hq | flushDone hq | initStep hq | initDone hq => simp [hq] at hp

/-- Under ABORT an error does end the flush at a window (42_bus R166). -/
theorem answered_of_windowCut {s : State} {e : TransportError} (hp : s.phase = .flCol ∨ s.phase = .flRow)
    (hpol : s.params.windowErrPolicy = .abort) : answered (.err e) s = .next (respond (.err e) s) := by
  rcases hp with hp | hp
  · simp [answered_of_flCol hp, flushColAnswered, windowAnswer, hpol]
  · simp [answered_of_flRow hp, flushRowAnswered, windowAnswer, hpol]

/-- A window's answer that is taken to another phase than IDLE is no error, or the policy is not ABORT. -/
theorem not_windowCut {s t : State} {r : Result} (ha : answered r s = .next t)
    (hp : s.phase = .flCol ∨ s.phase = .flRow) (ht : t.phase ≠ .idle) :
    ¬ (r ≠ .ok ∧ s.params.windowErrPolicy = .abort) := by
  rintro ⟨hr, hpol⟩
  cases r with
  | ok => exact hr rfl
  | err e =>
    rw [answered_of_windowCut hp hpol] at ha
    cases ha
    exact ht rfl

/-- The chunk loop passes the last row exactly after the chunk of the last columns in it (42_bus R170). -/
theorem advanceChunk_pastEnd_iff {u : State} (hc : ConfigInv u) (hx : u.x.toNat ≤ u.halfwidth.toNat)
    (hy : u.y.toNat ≤ u.hmax.toNat) : u.hmax < (advanceChunk u).y ↔ lastChunk u = true := by
  have hb := hc.stride_bounds
  have hs := hc.stride_halfwidth
  have hh := hc.height_hmax
  have hhm := hc.heightMax
  have hx8 : (u.x + 8).toNat = u.x.toNat + 8 := by bv_omega
  have hy1 : (u.y + 1).toNat = u.y.toNat + 1 := by bv_omega
  simp only [lastChunk, Bool.and_eq_true, decide_eq_true_eq]
  unfold advanceChunk
  split_ifs with hend <;> rw [BitVec.lt_def, hx8] at hend <;> simp only [BitVec.lt_def, hy1] <;> omega

/-- The script ends exactly after STEP 18 (43_init R190). -/
theorem initScript_next_none_iff {p : Params} {hw hm : Byte} {n : BitVec 5} (hn : n.toNat < 19) :
    (initScript p hw hm)[(n + 1).toNat]? = none ↔ n = 18 := by
  have hn1 : (n + 1).toNat = n.toNat + 1 := by bv_omega
  have hlen : (initScript p hw hm).length = 19 := rfl
  rw [List.getElem?_eq_none_iff, hlen, hn1]
  bv_omega

/-- In an invariant block the bus's answer takes PHASE where the table says (10_state R25). -/
theorem phase_of_answered {s t : State} {r : Result} (h : BlockInv s) (hon : s.phase.onBus = true)
    (ha : answered r s = .next t) : t.phase = phaseAfterAnswer s r := by
  have chunkEnd (hp : s.phase = .flChunk) :
      s.hmax < (advanceChunk (recordErr r s)).y ↔ lastChunk s = true := by
    have hx := (h.seq.chunkX hp).1
    have hy := h.seq.chunkY hp
    simpa [lastChunk] using
      advanceChunk_pastEnd_iff (u := recordErr r s) (h.config.of_same (by simp [sameConfig])) (by simpa using hx)
        (by simpa using hy)
  cases answered_cases hon ha with
  | sent hp ht => rcases hp with hp | hp <;> simp [phaseAfterAnswer, hp, ht]
  | windowEnds hp e hr hpol ht => rcases hp with hp | hp <;> simp [phaseAfterAnswer, hp, hr, hpol, ht]
  | rowWindow hp u hu ht =>
    have hcut := not_windowCut ha (.inl hp) (by rw [ht]; exact Phase.noConfusion)
    simp only [phaseAfterAnswer, hp, if_neg hcut, ht]
    rfl
  | firstChunk hp u hu bytes hb ht =>
    have hcut := not_windowCut ha (.inr hp) (by rw [ht]; exact Phase.noConfusion)
    simp only [phaseAfterAnswer, hp, if_neg hcut, ht]
    rfl
  | nextChunk hp bytes hb hy ht =>
    have hlast : ¬ lastChunk s = true := fun hl => absurd ((chunkEnd hp).2 hl) (BitVec.not_lt.2 hy)
    simp [phaseAfterAnswer, hp, hlast, ht]
  | flushDone hp hy ht => simp [phaseAfterAnswer, hp, (chunkEnd hp).1 hy, ht]
  | initStep hp c hc ht =>
    have hlast : s.initStep ≠ 18 := fun h18 => by
      rw [(initScript_next_none_iff h.seq.stepRange).2 h18] at hc
      cases hc
    simp only [phaseAfterAnswer, hp, if_neg hlast, ht]
    rfl
  | initDone hp hc ht => simp [phaseAfterAnswer, hp, (initScript_next_none_iff h.seq.stepRange).1 hc, ht]

/-- Settles O54, clause by clause over the three things a step can do: a step that rests keeps PHASE and its
inputs, a request leaves IDLE by its code, an answer moves PHASE by the table. -/
theorem phaseMovesOnEdges : Obligations.PhaseMovesOnEdges := by
  intro s t hr h
  cases blockStep_of_step hr h with
  | rests query out ht =>
    subst ht
    refine ⟨phaseEdge_self _, fun hi hn => absurd hi hn, fun _ r hq => ?_, fun _ hn => absurd rfl hn,
      fun hp hi => ?_, fun _ r _ hq => ?_⟩
    · exact absurd hq.symm (List.cons_ne_self r _)
    · simp [show s.phase = .idle from hi] at hp
    · exact absurd hq.symm (List.cons_ne_self r _)
  | request hi r rest hq hc =>
    obtain ⟨-, hreqs, -⟩ := hc.frame
    have hrest : t.hostReqs = rest := by simp [hreqs, hq]
    refine ⟨hi ▸ hc.phaseEdge, fun _ hn => ⟨r, hrest ▸ hq, hc.req_latched hn⟩, fun _ r' hq' => ?_,
      fun hn => absurd hi hn, fun hp => ?_, fun _ _ hon => absurd hi (Phase.ne_idle_of_onBus hon)⟩
    · obtain ⟨rfl, -⟩ := List.cons.inj (hq.symm.trans hq')
      exact hc.idle_iff
    · simp [hi] at hp
  | answer hon r rest hq ha hc =>
    have hni := Phase.ne_idle_of_onBus hon
    obtain ⟨-, -, -, -, -, hbus, -⟩ := hc.frame
    have htaken : s.busIn = r :: t.busIn := by rw [hbus]; exact hq
    refine ⟨hc.phaseEdge, fun hi => absurd hi hni, fun hi => absurd hi hni, fun _ _ => ⟨r, htaken⟩,
      fun hp hi => ?_, fun hb r' _ hq' => ?_⟩
    · obtain ⟨hpol, e, rfl⟩ := hc.window_to_idle hp hi
      exact ⟨hpol, e, htaken⟩
    · obtain ⟨rfl, -⟩ := List.cons.inj (htaken.symm.trans hq')
      have hphase := phase_of_answered (hb.of_ports rest s.encPort s.encOut) hon ha
      refine ⟨hphase, fun hi => ?_⟩
      rcases hc.starts_or_completes with hs | ⟨resp, hd, -⟩
      · exact absurd hi (Phase.ne_idle_of_onBus hs.driven)
      · exact ⟨resp, hd.responded⟩

end Sys2Proof.Machine
end

section
/-! SUPPORT. The memory's family (20_memory R50 to R63): where an in-range pixel lies in the framebuffer, and which
steps write the framebuffer. -/

namespace Sys2Proof.Machine

/-! ### The index of a pixel -/

/-- The byte-column of a column of the geometry lies inside its row (00_scope R7). -/
theorem ConfigInv.half_lt_stride {s : State} (h : ConfigInv s) {n : Nat} (hn : n ≤ s.wmax.toNat) :
    n / 2 < s.stride.toNat := by
  have := h.stride_toNat
  have := h.wmax
  have := h.widthMin
  have := h.widthEven
  omega

/-- The last pixel lies in the last byte of the framebuffer: `HALFWIDTH + HMAX * STRIDE = FBLEN - 1`
(20_memory R52). -/
theorem pixIndex_last {s : State} (h : ConfigInv s) : (pixIndex s s.wmax s.hmax).toNat = s.fbLen - 1 := by
  have hhalf : s.wmax.toNat / 2 = s.stride.toNat - 1 := by
    have := h.wmax
    have := h.halfwidth
    have := h.stride_halfwidth
    omega
  have hpos := h.stride_bounds.1
  have hlen : s.fbLen = s.hmax.toNat * s.stride.toNat + s.stride.toNat := by
    rw [State.fbLen, h.height_hmax, Nat.mul_comm, Nat.succ_mul]
  rw [pixIndex_toNat h ((inRange_iff _ _ _).2 ⟨le_rfl, le_rfl⟩), hhalf, hlen]
  omega

/-- Dividing an in-range pixel's index by STRIDE gives back its row and its byte-column, which is below STRIDE
(20_memory R60). -/
theorem pixelsOfIndex_pixIndex {s : State} (h : ConfigInv s) {x y : Byte} (hr : inRange s x y = true) :
    pixelsOfIndex s (pixIndex s x y).toNat =
      ((2 * (x.toNat / 2), y.toNat), (2 * (x.toNat / 2) + 1, y.toNat)) := by
  have hcol : x.toNat / 2 < s.stride.toNat := h.half_lt_stride ((inRange_iff s x y).1 hr).1
  have hrow : (x.toNat / 2 + y.toNat * s.stride.toNat) / s.stride.toNat = y.toNat := by
    rw [Nat.add_mul_div_right _ _ (Nat.zero_lt_of_lt hcol), Nat.div_eq_of_lt hcol, Nat.zero_add]
  simp only [pixelsOfIndex, pixIndex_toNat h hr, hrow, Nat.add_mul_mod_self_right, Nat.mod_eq_of_lt hcol]

/-- Of the two pixels of its index, the one in the coordinate's own nibble is the coordinate (20_memory R60). -/
theorem pixel_of_pixIndex {s : State} (h : ConfigInv s) {x y : Byte} (hr : inRange s x y = true) :
    (if pixHigh x then (pixelsOfIndex s (pixIndex s x y).toNat).1
      else (pixelsOfIndex s (pixIndex s x y).toNat).2) = (x.toNat, y.toNat) := by
  rw [pixelsOfIndex_pixIndex h hr]
  cases hp : pixHigh x with
  | true =>
    have heven := (pixHigh_iff x).1 hp
    simp only [if_true, Prod.mk.injEq, and_true]
    omega
  | false =>
    have hodd := (pixHigh_eq_false_iff x).1 hp
    simp only [Bool.false_eq_true, if_false, Prod.mk.injEq, and_true]
    omega

/-- Settles O21: the index is exact and inside the framebuffer, the last one is the last byte, and the division
by STRIDE inverts it. -/
theorem pixelIndexExact : Obligations.PixelIndexExact := by
  intro s x y h hx hy
  have hr : inRange s x y = true := (inRange_iff s x y).2 ⟨hx, hy⟩
  have hlt := pixIndex_lt h hr
  have hlen := h.fbLen_le
  exact ⟨pixIndex_toNat h hr, hlt, by omega, pixIndex_last h, pixHigh_iff x, pixel_of_pixIndex h hr⟩

/-! ### Who writes the framebuffer -/

/-- A request leaves FB as it is, or is a pixel request that writes FB and completes with OK (20_memory R63). -/
theorem RequestCase.fb_eq_or_pixel {r : Request} {s t : State} (h : RequestCase r s t) :
    t.fb = s.fb ∨ ((r.op = 2 ∨ r.op = 3) ∧ ∃ m, t = respond .ok { s with fb := m }) := by
  cases h with
  | pixel x y v ho hr hi ht => exact .inr ⟨ho, _, ht⟩
  | fault c ho ht | cmd tag a b ho ht | data d ho ht | ignored ho ht | flush ho hf ht | init ho ht =>
    exact .inl (by rw [ht]; rfl)

/-- Settles O30: of what a step can do, only the acceptance of a pixel request writes FB, and it writes nothing
else but the completion. -/
theorem onlyPixelRequestsChangeFb : Obligations.OnlyPixelRequestsChangeFb := by
  intro s t hr h hfb
  cases blockStep_of_step hr h with
  | rests query out ht => exact absurd (by rw [ht]) hfb
  | answer hon r rest hq ha hc =>
    obtain ⟨-, hsame, -⟩ := hc.frame
    exact absurd hsame hfb
  | request hi r rest hq hc =>
    obtain hsame | ⟨hop, m, rfl⟩ := hc.fb_eq_or_pixel
    · exact absurd hsame hfb
    · exact ⟨hi, ⟨r, rest, hq, hop⟩, rfl, rfl, rfl, rfl, rfl, rfl⟩

end Sys2Proof.Machine
end

section
/-! SUPPORT. The encoding's family (30_encoding R80 to R93): the port words and their instructions, the command frames
and their tags, and the table words. -/

namespace Sys2Proof

/-! ### Port words -/

/-- The query of a tag decodes to the tag's command. -/
theorem decode_queryOf (t : Tag) (p0 p1 : Byte) : decode (queryOf t p0 p1) = .ok (instrOfTag t p0 p1) := by
  simp only [decode, queryOf, decodeQuery, Tag.ofCode_code]

/-- Decoding inverts encoding on every instruction, a SEND_CMD of a reserved tag too: the port carries its raw code. -/
theorem decode_encode (i : Instr) : decode (encode i) = .ok i := by
  cases i with
  | sendCmd | sendData | setPixel | drawPixel | flush | init => rfl
  | _ => exact decode_queryOf _ _ _

/-- Settles O2: a command is its tag's query, a request carries its code and operands verbatim. -/
theorem decodeEncodeRoundTrip : Obligations.DecodeEncodeRoundTrip := fun i _ => decode_encode i

/-- Request codes 6 and 7 are reserved (30_encoding R91). -/
theorem decodeRequest_of_reserved {r : Request} (h : 6 ≤ r.op.toNat) : decodeRequest r = .error .badOp := by
  have hop : r.op.toNat = 6 ∨ r.op.toNat = 7 := by omega
  rcases hop with hop | hop <;> simp only [decodeRequest, hop]

theorem decodeRequest_of_lt {r : Request} (h : r.op.toNat < 6) : ∃ i, decodeRequest r = .ok i := by
  cases hd : decodeRequest r with
  | ok i => exact ⟨i, rfl⟩
  | error e => exact absurd (Machine.decodeRequest_error hd).2 (by omega)

/-- Tag codes 25..31 at the encoder port are reserved (30_encoding R91). -/
theorem decodeQuery_of_reserved {q : EncQuery} (h : 25 ≤ q.tag.toNat) : decodeQuery q = .error .reservedTag := by
  simp only [decodeQuery, (Tag.ofCode_eq_none_iff q.tag).2 h]

theorem decodeQuery_of_lt {q : EncQuery} (h : q.tag.toNat < 25) : ∃ i, decodeQuery q = .ok i := by
  obtain ⟨t, ht⟩ := Tag.ofCode_of_lt h
  exact ⟨instrOfTag t q.p0 q.p1, by simp only [decodeQuery, ht]⟩

/-- Settles O4: at either port the code alone, reserved or not, says whether there is an instruction. -/
theorem onlyReservedCodesRejected : Obligations.OnlyReservedCodesRejected := by
  intro w
  cases w with
  | query q =>
    rcases lt_or_ge q.tag.toNat 25 with h | h
    · obtain ⟨i, hd⟩ := decodeQuery_of_lt h
      simp [decode, hd, h]
    · simp [decode, decodeQuery_of_reserved h, h]
  | request r =>
    rcases lt_or_ge r.op.toNat 6 with h | h
    · obtain ⟨i, hd⟩ := decodeRequest_of_lt h
      simp [decode, hd, h]
    · simp [decode, decodeRequest_of_reserved h, h]

/-- Settles O1: each word is evaluated. -/
theorem opcodeTableWordsDecode : Obligations.OpcodeTableWordsDecode := by
  unfold Obligations.OpcodeTableWordsDecode
  decide

/-! ### Command frames -/

/-- The bytes of a command frame after its control byte, by class (30_encoding R81 to R83). -/
def Tag.frameRest (opc fixv : List Byte) (t : Tag) (p0 p1 : Byte) : List Byte :=
  match t.arity with
  | .n => [opcOf opc t]
  | .v => [opcOf opc t, p0]
  | .f => [opcOf opc t, fixvOf fixv t]
  | .w => [opcOf opc t, p0, p1]

theorem frame_encodeCommand (p : Params) (t : Tag) (p0 p1 : Byte) :
    (encodeCommand p t p0 p1).frame = p.rev.ctrlCmd :: t.frameRest p.opc p.fixv p0 p1 := by
  unfold encodeCommand Tag.frameRest
  cases t.arity <;> rfl

/-- An instruction with a bus frame is a tag's command, and the frame is what the encoder gives for it. -/
theorem frameOf_eq_some {p : Params} {i : Instr} {bytes : List Byte} (h : frameOf p i = some bytes) :
    ∃ t p0 p1, i = instrOfTag t p0 p1 ∧ bytes = (encodeCommand p t p0 p1).frame := by
  have hd := decode_encode i
  unfold frameOf at h
  cases he : encode i with
  | request r => simp [he] at h
  | query q =>
    simp only [he, Option.map_eq_some_iff] at h
    obtain ⟨t, ht, rfl⟩ := h
    simp only [he, decode, decodeQuery, ht, Except.ok.injEq] at hd
    exact ⟨t, q.p0, q.p1, hd.symm, rfl⟩

theorem Tag.matchesFrame_iff (opc fixv : List Byte) (n : Nat) (op p : Byte) (t : Tag) :
    t.matchesFrame opc fixv n op p = true ↔
      t.arity.frameLen = n ∧ opcOf opc t = op ∧ (t.arity = .f → fixvOf fixv t = p) := by
  simp [Tag.matchesFrame, and_assoc, imp_iff_not_or]

/-- Two tags share a default opcode only where both have a fixed byte, and then these differ (30_encoding R86). -/
theorem eq_or_fixv_ne_of_defaultOpc_eq {t u : Tag} (h : opcOf defaultOpc t = opcOf defaultOpc u) :
    t = u ∨ t.arity = .f ∧ u.arity = .f ∧ fixvOf defaultFixv t ≠ fixvOf defaultFixv u := by
  have table : ∀ t ∈ Tag.all, ∀ u ∈ Tag.all, opcOf defaultOpc t = opcOf defaultOpc u →
      t = u ∨ t.arity = .f ∧ u.arity = .f ∧ fixvOf defaultFixv t ≠ fixvOf defaultFixv u := by decide
  exact table t t.mem_all u u.mem_all h

/-- Under the default tables no frame is a frame of two tags. -/
theorem Tag.eq_of_matchesFrame {n : Nat} {op p : Byte} {t u : Tag}
    (ht : t.matchesFrame defaultOpc defaultFixv n op p = true)
    (hu : u.matchesFrame defaultOpc defaultFixv n op p = true) : t = u := by
  obtain ⟨-, htop, htfix⟩ := (Tag.matchesFrame_iff ..).1 ht
  obtain ⟨-, huop, hufix⟩ := (Tag.matchesFrame_iff ..).1 hu
  rcases eq_or_fixv_ne_of_defaultOpc_eq (htop.trans huop.symm) with heq | ⟨htf, huf, hne⟩
  · exact heq
  · exact absurd ((htfix htf).trans (hufix huf).symm) hne

/-- A frame of a tag is read as that tag's command. -/
theorem commandOfFrame_of_matchesFrame {n : Nat} {c op p0 : Byte} {t : Tag} (p1 : Byte)
    (hc : isCommandControl c = true) (h : t.matchesFrame defaultOpc defaultFixv n op p0 = true) :
    commandOfFrame defaultOpc defaultFixv n c op p0 p1 = .ok (instrOfTag t p0 p1) := by
  have hfound : Tag.all.find? (Tag.matchesFrame defaultOpc defaultFixv n op p0) = some t := by
    cases hf : Tag.all.find? (Tag.matchesFrame defaultOpc defaultFixv n op p0) with
    | some u => rw [Tag.eq_of_matchesFrame (List.find?_some hf) h]
    | none => exact absurd h (List.find?_eq_none.1 hf t t.mem_all)
  simp only [commandOfFrame, hc, hfound, if_true]

/-- A command without argument bytes takes neither parameter byte (30_encoding R87). -/
theorem instrOfTag_of_noArgument {t : Tag} (h : t.arity = .n ∨ t.arity = .f) (a b c d : Byte) :
    instrOfTag t a b = instrOfTag t c d := by
  cases t with
  | normalDisplay | allOn | allOff | inverseDisplay | displayOff | displayOn | linearLut
  | internalVdd | externalVdd | unlock | lock => rfl
  | _ => simp [Tag.arity] at h

/-- A single-value command takes the first parameter byte only (30_encoding R87). -/
theorem instrOfTag_of_value {t : Tag} (h : t.arity = .v) (a b d : Byte) : instrOfTag t a b = instrOfTag t a d := by
  cases t with
  | columnAddress | rowAddress => cases h
  | _ => rfl

/-- Under the default tables a frame of a tag decodes back to the tag's command, class by class. -/
theorem decodeFrame_frameRest {c : Byte} (hc : isCommandControl c = true) (t : Tag) (p0 p1 : Byte) :
    decodeFrame defaultOpc defaultFixv (c :: t.frameRest defaultOpc defaultFixv p0 p1) =
      .ok (instrOfTag t p0 p1) := by
  have hmatch (third : Byte) (h : t.arity = .f → fixvOf defaultFixv t = third) :=
    (Tag.matchesFrame_iff defaultOpc defaultFixv t.arity.frameLen (opcOf defaultOpc t) third t).2 ⟨rfl, rfl, h⟩
  cases ht : t.arity <;> simp only [ht] at hmatch <;> simp only [Tag.frameRest, ht, decodeFrame]
  case n =>
    rw [instrOfTag_of_noArgument (.inl ht) p0 p1 0 0]
    exact commandOfFrame_of_matchesFrame 0 hc (hmatch 0 nofun)
  case v =>
    rw [instrOfTag_of_value ht p0 p1 0]
    exact commandOfFrame_of_matchesFrame 0 hc (hmatch p0 nofun)
  case f =>
    rw [instrOfTag_of_noArgument (.inr ht) p0 p1 (fixvOf defaultFixv t) 0]
    exact commandOfFrame_of_matchesFrame 0 hc (hmatch _ fun _ => rfl)
  case w => exact commandOfFrame_of_matchesFrame p1 hc (hmatch p0 nofun)

/-- Settles O3: the frame is a tag's, and under the default tables no other tag has it. -/
theorem sentFramesDecodeBack : Obligations.SentFramesDecodeBack := by
  intro p i bytes hctrl hopc hfixv hframe
  obtain ⟨t, p0, p1, rfl, rfl⟩ := frameOf_eq_some hframe
  have hc : isCommandControl p.rev.ctrlCmd = true := by simpa [isCommandControl] using hctrl
  rw [frame_encodeCommand, hopc, hfixv]
  exact decodeFrame_frameRest hc t p0 p1

end Sys2Proof

namespace Sys2Proof.Machine

/-! ### The encoder port -/

/-- Settles O11: the list is the tag table in code order, each tag with its command and its default frame. -/
theorem defaultInstanceFrames : Obligations.DefaultInstanceFrames := by
  intro a b s hopc hfixv e he
  change e ∈ Tag.all.map fun t => (instrOfTag t a b, t.frameRest defaultOpc defaultFixv a b) at he
  obtain ⟨t, -, rfl⟩ := List.mem_map.1 he
  refine ⟨_, exec_instrOfTag t a b s, ?_⟩
  rw [driveEncoder_encOut, frame_encodeCommand, hopc, hfixv]

/-- Settles O12: the query is consumed and rejected, which drives the empty output. -/
theorem reservedTagGivesLengthZero : Obligations.ReservedTagGivesLengthZero := by
  intro s q hr he htag
  have hstep : step s = rejectWord .reservedTag (accept (.query q) s) := by
    simp only [step, hr, fetch_of_query he, decode, decodeQuery_of_reserved htag]
  exact hstep

end Sys2Proof.Machine
end

section
/-! SUPPORT. The command encoder's family (40_command_encoder R100 to R127): what each class of tags encodes to, the
whole-table properties, and the commands at the encoder port. -/

namespace Sys2Proof

/-! ### The encoder's output by class (R100) -/

section
variable {t : Tag} (p : Params) (p0 p1 : Byte)

theorem encodeCommand_of_plain (h : t.arity = .n) :
    encodeCommand p t p0 p1 = ⟨p.rev.ctrlCmd, opcOf p.opc t, 0x00, 0x00, 2⟩ := by
  simp only [encodeCommand, h]

theorem encodeCommand_of_value (h : t.arity = .v) :
    encodeCommand p t p0 p1 = ⟨p.rev.ctrlCmd, opcOf p.opc t, p0, 0x00, 3⟩ := by
  simp only [encodeCommand, h]

theorem encodeCommand_of_fixed (h : t.arity = .f) :
    encodeCommand p t p0 p1 = ⟨p.rev.ctrlCmd, opcOf p.opc t, fixvOf p.fixv t, 0x00, 3⟩ := by
  simp only [encodeCommand, h]

theorem encodeCommand_of_window (h : t.arity = .w) :
    encodeCommand p t p0 p1 = ⟨p.rev.ctrlCmd, opcOf p.opc t, p0, p1, 4⟩ := by
  simp only [encodeCommand, h]

end

/-- Settles O5: the tags of each list are of one class, and the class says the output. -/
theorem encodeByClass : Obligations.EncodeByClass := by
  intro p p0 p1
  refine ⟨fun t ht => encodeCommand_of_plain p p0 p1 ?_, fun t ht => encodeCommand_of_value p p0 p1 ?_,
    fun t ht => encodeCommand_of_fixed p p0 p1 ?_, fun t ht => encodeCommand_of_window p p0 p1 ?_⟩
  all_goals
    revert t
    decide

/-! ### The whole table (R127) -/

/-- A frame is the control byte, the opcode and the parameter bytes. -/
theorem frame_eq_control_opcode_drop (p : Params) (t : Tag) (p0 p1 : Byte) :
    (encodeCommand p t p0 p1).frame =
      p.rev.ctrlCmd :: opcOf p.opc t :: (encodeCommand p t p0 p1).frame.drop 2 := by
  rw [frame_encodeCommand, Tag.frameRest]
  cases t.arity <;> rfl

/-- A tag without argument bytes encodes to one output only. -/
theorem encodeCommand_of_noArgument {t : Tag} (h : t.arity = .n ∨ t.arity = .f) (p : Params) (p0 p1 q0 q1 : Byte) :
    encodeCommand p t p0 p1 = encodeCommand p t q0 q1 := by
  rcases h with h | h
  · rw [encodeCommand_of_plain p p0 p1 h, encodeCommand_of_plain p q0 q1 h]
  · rw [encodeCommand_of_fixed p p0 p1 h, encodeCommand_of_fixed p q0 q1 h]

theorem encodeCommand_eq_iff_of_value {t : Tag} (h : t.arity = .v) (p : Params) (p0 p1 q0 q1 : Byte) :
    encodeCommand p t p0 p1 = encodeCommand p t q0 q1 ↔ p0 = q0 := by
  simp [encodeCommand_of_value _ _ _ h]

theorem encodeCommand_eq_iff_of_window {t : Tag} (h : t.arity = .w) (p : Params) (p0 p1 q0 q1 : Byte) :
    encodeCommand p t p0 p1 = encodeCommand p t q0 q1 ↔ p0 = q0 ∧ p1 = q1 := by
  simp [encodeCommand_of_window _ _ _ h]

/-- A byte of a frame other than the control byte is the opcode or a parameter byte. -/
theorem eq_opcode_or_mem_drop_of_mem_frame {p : Params} {t : Tag} {p0 p1 b : Byte} (hb : b ≠ p.rev.ctrlCmd)
    (hmem : b ∈ (encodeCommand p t p0 p1).frame) :
    b = opcOf p.opc t ∨ b ∈ (encodeCommand p t p0 p1).frame.drop 2 := by
  rw [frame_eq_control_opcode_drop, List.mem_cons, List.mem_cons] at hmem
  exact hmem.resolve_left hb

/-- Settles O6: a frame's length is its class's, so the census is one of the tag table. -/
theorem encoderTableProperties : Obligations.EncoderTableProperties := by
  intro p
  refine ⟨fun t p0 p1 => ?firstTwo, fun p0 p1 => ?census, fun t h => encodeCommand_of_noArgument h p,
    fun t h => encodeCommand_eq_iff_of_value h p, fun t h => encodeCommand_eq_iff_of_window h p,
    fun hne t p0 p1 => ⟨?head, eq_opcode_or_mem_drop_of_mem_frame hne⟩⟩
  case firstTwo =>
    rw [frame_eq_control_opcode_drop]
    rfl
  case census =>
    simp only [frame_length]
    decide
  case head =>
    rw [frame_head]
    exact fun heq => hne (Option.some.inj heq).symm

end Sys2Proof

namespace Sys2Proof.Machine

/-! ### The commands at the encoder port, by class -/

section
variable (t : Tag) (a b : Byte) (s : State)

theorem drives_instrOfTag : drives (instrOfTag t a b) s (encodeCommand s.params t a b) := exec_instrOfTag t a b s

theorem drives_of_plain (h : t.arity = .n) :
    drives (instrOfTag t a b) s ⟨s.params.rev.ctrlCmd, opcOf s.params.opc t, 0, 0, 2⟩ :=
  encodeCommand_of_plain s.params a b h ▸ drives_instrOfTag t a b s

theorem drives_of_value (h : t.arity = .v) :
    drives (instrOfTag t a b) s ⟨s.params.rev.ctrlCmd, opcOf s.params.opc t, a, 0, 3⟩ :=
  encodeCommand_of_value s.params a b h ▸ drives_instrOfTag t a b s

theorem drives_of_fixed (h : t.arity = .f) :
    drives (instrOfTag t a b) s ⟨s.params.rev.ctrlCmd, opcOf s.params.opc t, fixvOf s.params.fixv t, 0, 3⟩ :=
  encodeCommand_of_fixed s.params a b h ▸ drives_instrOfTag t a b s

theorem drives_of_window (h : t.arity = .w) :
    drives (instrOfTag t a b) s ⟨s.params.rev.ctrlCmd, opcOf s.params.opc t, a, b, 4⟩ :=
  encodeCommand_of_window s.params a b h ▸ drives_instrOfTag t a b s

end

/-- Settles O7: both are of class W. -/
theorem windowCommandsEncode : Obligations.WindowCommandsEncode := fun a b s =>
  ⟨drives_of_window .columnAddress a b s rfl, drives_of_window .rowAddress a b s rfl⟩

/-- Settles O8: all twelve are of class V. -/
theorem valueCommandsEncode : Obligations.ValueCommandsEncode := fun v s =>
  ⟨drives_of_value .contrast v 0 s rfl, drives_of_value .remap v 0 s rfl, drives_of_value .startLine v 0 s rfl,
    drives_of_value .displayOffset v 0 s rfl, drives_of_value .muxRatio v 0 s rfl,
    drives_of_value .phaseLength v 0 s rfl, drives_of_value .clockOsc v 0 s rfl, drives_of_value .gpio v 0 s rfl,
    drives_of_value .secondPrecharge v 0 s rfl, drives_of_value .prechargeVoltage v 0 s rfl,
    drives_of_value .vcomh v 0 s rfl, drives_of_value .functionSelectB v 0 s rfl⟩

/-- Settles O9: all four are of class F, and their places in FIXV are 0 to 3. -/
theorem fixedCommandsEncode : Obligations.FixedCommandsEncode := fun s =>
  ⟨drives_of_fixed .internalVdd 0 0 s rfl, drives_of_fixed .externalVdd 0 0 s rfl,
    drives_of_fixed .unlock 0 0 s rfl, drives_of_fixed .lock 0 0 s rfl⟩

/-- Settles O10: all seven are of class N. -/
theorem plainCommandsEncode : Obligations.PlainCommandsEncode := fun s =>
  ⟨drives_of_plain .normalDisplay 0 0 s rfl, drives_of_plain .allOn 0 0 s rfl, drives_of_plain .allOff 0 0 s rfl,
    drives_of_plain .inverseDisplay 0 0 s rfl, drives_of_plain .displayOff 0 0 s rfl,
    drives_of_plain .displayOn 0 0 s rfl, drives_of_plain .linearLut 0 0 s rfl⟩

end Sys2Proof.Machine
end

section
/-! SUPPORT. The pixel indexer's family (41_pixel R140 to R149): what one nibble written does to the framebuffer,
what the two pixel requests do in IDLE, and a batch of drawing pairs. -/

namespace Sys2Proof.Machine

/-- Settles O22: STRIDE is half the width. -/
theorem bufferSizeIsFblen : Obligations.BufferSizeIsFblen :=
  ⟨fun s h => ⟨by rw [State.fbLen, h.stride_toNat, bufferSize], h.fbLen_le⟩, rfl, rfl⟩

/-! ### One nibble written -/

/-- The framebuffer with one nibble of the byte at `i` replaced by a gray value (41_pixel R142, R143). -/
def Memory.writeNibble (m : Memory) (i : Nat) (high : Bool) (v : Byte) : Memory :=
  m.write i (setNibble high v (m.read i))

section
variable {m : Memory} (hm : m.wf = true) (i : Nat) (high : Bool) (v : Byte)
include hm

theorem Memory.wf_writeNibble : (m.writeNibble i high v).wf = true := Memory.wf_write _ _ _ hm

theorem Memory.read_writeNibble_same : (m.writeNibble i high v).read i = setNibble high v (m.read i) :=
  Memory.read_write_same _ _ _ hm

theorem Memory.read_writeNibble_other {a : Nat} (ha : a ≠ i) : (m.writeNibble i high v).read a = m.read a :=
  Memory.read_write_other _ _ _ _ ha hm

theorem Memory.nibble_writeNibble_same : nibble high ((m.writeNibble i high v).read i) = v.setWidth 4 := by
  rw [Memory.read_writeNibble_same hm, nibble_setNibble]

/-- The other nibble of the byte and every other byte keep what they held (41_pixel R144, item 1). -/
theorem Memory.nibble_writeNibble_other {a : Nat} {side : Bool} (hne : (a, side) ≠ (i, high)) :
    nibble side ((m.writeNibble i high v).read a) = nibble side (m.read a) := by
  by_cases ha : a = i
  · have hside : side = !high := Bool.eq_not.2 fun hside => hne (by rw [ha, hside])
    rw [ha, hside, Memory.read_writeNibble_same hm, nibble_setNibble_other]
  · rw [Memory.read_writeNibble_other hm _ _ _ ha]

/-- Two writes into one byte are one write of the byte they leave. -/
theorem Memory.writeNibble_writeNibble (high' : Bool) (w : Byte) :
    (m.writeNibble i high v).writeNibble i high' w =
      m.write i (setNibble high' w (setNibble high v (m.read i))) := by
  rw [Memory.writeNibble, Memory.read_writeNibble_same hm, Memory.writeNibble, Memory.write_write _ _ _ _ hm]

/-- Of two writes to one nibble the later wins (41_pixel R144, item 3). -/
theorem Memory.writeNibble_twice (w : Byte) :
    (m.writeNibble i high v).writeNibble i high w = m.writeNibble i high w := by
  rw [Memory.writeNibble_writeNibble hm, setNibble_twice, Memory.writeNibble]

/-- Writes to the two nibbles of one byte commute (41_pixel R144, item 2). -/
theorem Memory.writeNibble_comm (w : Byte) :
    (m.writeNibble i true v).writeNibble i false w = (m.writeNibble i false w).writeNibble i true v := by
  rw [Memory.writeNibble_writeNibble hm, Memory.writeNibble_writeNibble hm, setNibble_comm]

end

/-! ### The two pixel requests in IDLE -/

/-- The state a pixel request accepted in IDLE ends in: FB is `m`, the request is completed with OK (41_pixel
R140). -/
def State.completePixel (s : State) (m : Memory) : State :=
  { s with fb := m, req := none, respLog := s.respLog ++ [.ok] }

theorem respond_ok_of_idle {s : State} (hi : s.phase = .idle) (m : Memory) :
    respond .ok { s with fb := m } = s.completePixel m := by
  simp [respond, State.completePixel, hi]

theorem ConfigInv.completePixel {s : State} (h : ConfigInv s) (m : Memory) : ConfigInv (s.completePixel m) :=
  h.of_same ⟨rfl, rfl, rfl, rfl, rfl, rfl, rfl⟩

theorem exec_setPixel_of_inRange {s : State} (h : ConfigInv s) (hi : s.phase = .idle) {x y : Byte} (v : Byte)
    (hr : inRange s x y = true) :
    exec (.setPixel x y v) s =
      .next (s.completePixel (s.fb.writeNibble (pixIndex s x y).toNat (pixHigh x) v)) := by
  simp only [exec, execSetPixel, whenReady_of_idle hi, writePixel_of_inRange h v hr, respond_ok_of_idle hi,
    Memory.writeNibble]

/-- A second SET_PIXEL finds the same geometry, over the first one's framebuffer. -/
theorem exec_setPixel_completePixel {s : State} (h : ConfigInv s) (hi : s.phase = .idle) {x y : Byte} (v : Byte)
    (hr : inRange s x y = true) (m : Memory) :
    exec (.setPixel x y v) (s.completePixel m) =
      .next ((s.completePixel m).completePixel (m.writeNibble (pixIndex s x y).toNat (pixHigh x) v)) :=
  exec_setPixel_of_inRange (h.completePixel m) hi v hr

theorem exec_setPixel_of_outOfRange {s : State} (hi : s.phase = .idle) {x y : Byte} (v : Byte)
    (hr : inRange s x y = false) : exec (.setPixel x y v) s = .next (s.completePixel s.fb) := by
  simp only [exec, execSetPixel, whenReady_of_idle hi, writePixel_of_outOfRange v hr, ← respond_ok_of_idle hi]

theorem exec_drawPixel_of_inside {s : State} (hi : s.phase = .idle) {sx sy : BitVec 32} (v : Byte)
    (hd : drawInRange s sx sy = true) :
    exec (.drawPixel sx sy v) s = exec (.setPixel (sx.setWidth 8) (sy.setWidth 8) v) s := by
  simp only [exec, execDrawPixel, execSetPixel, whenReady_of_idle hi, hd, if_true]

theorem exec_drawPixel_of_outside {s : State} (hi : s.phase = .idle) {sx sy : BitVec 32} (v : Byte)
    (hd : drawInRange s sx sy = false) : exec (.drawPixel sx sy v) s = .next (s.completePixel s.fb) := by
  simp only [exec, execDrawPixel, whenReady_of_idle hi, hd, Bool.false_eq_true, if_false, ← respond_ok_of_idle hi]

/-- In a legal geometry DRAW_PIXEL paints its pair, inside the extent or not (41_pixel R145). -/
theorem exec_drawPixel {s : State} (h : ConfigInv s) (hi : s.phase = .idle) (sx sy : BitVec 32) (v : Byte) :
    exec (.drawPixel sx sy v) s = .next (s.completePixel (paint s s.fb (sx, sy, v))) := by
  cases hd : drawInRange s sx sy with
  | true =>
    obtain ⟨-, -, hr⟩ := drawInRange_narrow h hd
    rw [exec_drawPixel_of_inside hi v hd, exec_setPixel_of_inRange h hi v hr, paint, if_pos hd, Memory.writeNibble]
  | false => rw [exec_drawPixel_of_outside hi v hd, paint, if_neg (by simp [hd])]

/-! ### SET_PIXEL -/

/-- Settles O23: the byte at the index is the old one with one nibble set, by the parity of x. -/
theorem setPixelWritesOneNibble : Obligations.SetPixelWritesOneNibble := by
  intro s x y v h hfb hi hx hy
  have hr : inRange s x y = true := (inRange_iff s x y).2 ⟨hx, hy⟩
  refine ⟨_, exec_setPixel_of_inRange h hi v hr, fun heven => ?_, fun hodd => ?_,
    fun a ha => Memory.read_writeNibble_other hfb _ _ _ ha, Memory.wf_writeNibble hfb _ _ _⟩
  · rw [Memory.read_writeNibble_same hfb, (pixHigh_iff x).2 heven]
    rfl
  · rw [Memory.read_writeNibble_same hfb, (pixHigh_eq_false_iff x).2 hodd]
    rfl

/-- Settles O24: out of range is the failure of the bounds check. -/
theorem setPixelOutOfRangeIgnored : Obligations.SetPixelOutOfRangeIgnored := by
  intro s x y v hi hout
  have hr : inRange s x y = false := Bool.eq_false_iff.2 fun hr => by
    obtain ⟨hx, hy⟩ := (inRange_iff s x y).1 hr
    omega
  exact exec_setPixel_of_outOfRange hi v hr

/-- Settles O25: a nibble other than the pixel's is the other one of its byte, or in another byte. -/
theorem pixelWriteNibbleFrame : Obligations.PixelWriteNibbleFrame := by
  intro s t x y v h hfb hi hx hy ht
  rw [exec_setPixel_of_inRange h hi v ((inRange_iff s x y).2 ⟨hx, hy⟩)] at ht
  cases ht
  exact ⟨Memory.nibble_writeNibble_same hfb _ _ _, fun a high hne => Memory.nibble_writeNibble_other hfb _ _ _ hne⟩

/-! ### Two pixels written -/

theorem toNat_add_one_of_le {x w : Byte} (h : x.toNat + 1 ≤ w.toNat) : (x + 1).toNat = x.toNat + 1 := by bv_omega

/-- The pixel right of an even one shares its byte (20_memory R52). -/
theorem pixIndex_add_one {s : State} (h : ConfigInv s) {x y : Byte} (heven : x.toNat % 2 = 0)
    (hx : x.toNat + 1 ≤ s.wmax.toNat) (hy : y.toNat ≤ s.hmax.toNat) :
    (pixIndex s (x + 1) y).toNat = (pixIndex s x y).toNat := by
  have hx1 := toNat_add_one_of_le hx
  have hhalf : (x.toNat + 1) / 2 = x.toNat / 2 := by omega
  rw [pixIndex_toNat h ((inRange_iff _ _ _).2 ⟨hx1 ▸ hx, hy⟩),
    pixIndex_toNat h ((inRange_iff _ _ _).2 ⟨Nat.le_of_succ_le hx, hy⟩), hx1, hhalf]

/-- Settles O26: the two writes go to one index, where nibble writes commute and the later of two to one nibble
wins. -/
theorem pixelWritesComposeAsStated : Obligations.PixelWritesComposeAsStated := by
  intro s h hfb hi
  refine ⟨fun x y a c heven hx hy => ?neighbours, fun x y a c hx hy => ?samePixel⟩
  case neighbours =>
    have hx1 := toNat_add_one_of_le hx
    have hr : inRange s x y = true := (inRange_iff s x y).2 ⟨Nat.le_of_succ_le hx, hy⟩
    have hr1 : inRange s (x + 1) y = true := (inRange_iff s _ y).2 ⟨hx1 ▸ hx, hy⟩
    have hhigh : pixHigh x = true := (pixHigh_iff x).2 heven
    have hlow : pixHigh (x + 1) = false := (pixHigh_eq_false_iff _).2 (by omega)
    refine ⟨_, _, _, _, exec_setPixel_of_inRange h hi a hr, exec_setPixel_completePixel h hi c hr1 _,
      exec_setPixel_of_inRange h hi c hr1, exec_setPixel_completePixel h hi a hr _, ?_⟩
    simp only [State.completePixel, pixIndex_add_one h heven hx hy, hhigh, hlow]
    refine ⟨Memory.writeNibble_comm hfb _ a c, ?_⟩
    rw [Memory.read_writeNibble_same (Memory.wf_writeNibble hfb _ _ _), Memory.read_writeNibble_same hfb,
      setNibble_both]
  case samePixel =>
    have hr : inRange s x y = true := (inRange_iff s x y).2 ⟨hx, hy⟩
    have htwice := Memory.writeNibble_twice hfb (pixIndex s x y).toNat (pixHigh x) a c
    exact ⟨_, _, _, exec_setPixel_of_inRange h hi a hr, exec_setPixel_completePixel h hi c hr _,
      exec_setPixel_of_inRange h hi c hr, htwice, fun hac => by subst hac; exact htwice⟩

/-! ### DRAW_PIXEL -/

/-- Settles O27: the check bounds both coordinates below 256, so that narrowing keeps them. -/
theorem drawPixelInsideIsSetPixel : Obligations.DrawPixelInsideIsSetPixel := by
  intro s sx sy v h hi hx0 hxw hy0 hyh
  have hd : drawInRange s sx sy = true := (drawInRange_iff s sx sy).2 ⟨hx0, hy0, hxw, hyh⟩
  obtain ⟨hxn, hyn, hr⟩ := drawInRange_narrow h hd
  exact ⟨_, exec_drawPixel h hi sx sy v, exec_drawPixel_of_inside hi v hd, hxn, hyn, (inRange_iff _ _ _).1 hr⟩

/-- Settles O28: outside the extent is the failure of the signed check. -/
theorem drawPixelOutsideDiscarded : Obligations.DrawPixelOutsideDiscarded := by
  intro s sx sy v hi hout
  have hd : drawInRange s sx sy = false := Bool.eq_false_iff.2 fun hd => by
    obtain ⟨hx0, hy0, hxw, hyh⟩ := (drawInRange_iff s sx sy).1 hd
    omega
  exact exec_drawPixel_of_outside hi v hd

/-! ### A batch -/

/-- One step takes the first pair of a batch and paints it (41_pixel R146). -/
theorem step_of_drawBatch {s : State} {p : BitVec 32 × BitVec 32 × Byte}
    {pairs : List (BitVec 32 × BitVec 32 × Byte)} {rest : List Request} (h : ConfigInv s) (hq : quietPorts s)
    (hi : s.phase = .idle) (hr : s.hostReqs = drawBatch (p :: pairs) ++ rest) :
    step s = .next
      ({ s with hostReqs := drawBatch pairs ++ rest }.completePixel (paint s s.fb p)) := by
  have hacc (r : Request) : ConfigInv (accept (.request r) s) := h.of_same ⟨rfl, rfl, rfl, rfl, rfl, rfl, rfl⟩
  calc step s = exec (.drawPixel p.1 p.2.1 p.2.2) (accept (.request _) s) := step_of_request hq hi hr rfl
    _ = .next ((accept (.request _) s).completePixel (paint s s.fb p)) := exec_drawPixel (hacc _) hi ..
    _ = _ := by simp [State.completePixel, accept, hr, drawBatch]

/-- Painting a pair reads the geometry only, which no painted pair before it has changed. -/
theorem paint_completePixel (s : State) (pending : List Request) (m : Memory) :
    paint ({ s with hostReqs := pending }.completePixel m) = paint s := rfl

/-- Settles O29, by induction on the pairs: each step paints the first pair and leaves a shorter batch. -/
theorem batchPaintsInOrder : Obligations.BatchPaintsInOrder := by
  intro pairs
  induction pairs with
  | nil =>
    intro s rest _ _ _ _ hr
    have hrest : s.hostReqs = rest := hr
    simp [runSteps_zero, ← hrest]
  | cons p pairs ih =>
    intro s rest h hq hi hreq hr
    have hstep := step_of_drawBatch h hq hi hr
    have hinv := (h.of_same (t := { s with hostReqs := drawBatch pairs ++ rest })
      ⟨rfl, rfl, rfl, rfl, rfl, rfl, rfl⟩).completePixel (paint s s.fb p)
    rw [List.length_cons, runSteps_succ_of_next _ hstep, ih _ rest hinv hq hi rfl rfl, paint_completePixel]
    simp [State.completePixel, hreq, List.replicate_succ]

end Sys2Proof.Machine
end

section
/-! SUPPORT. The bus and flush family, SEND_CMD and SEND_DATA (42_bus R160 to R162): the transaction a request
starts, and its answer given back verbatim. -/

namespace Sys2Proof.Machine

/-! ### What accepting the request does -/

/-- What a started command stages below TXLEN is its frame, whatever the staging buffer held (10_state R29). -/
theorem take_frame_append (p : Params) (t : Tag) (a b : Byte) (rest : List Byte) :
    ((encodeCommand p t a b).frame ++ rest).take t.arity.frameLen = (encodeCommand p t a b).frame :=
  List.take_left' (frame_length p t a b)

theorem exec_sendCmd_of_tag {s : State} {c : BitVec 5} {t : Tag} (hi : s.phase = .idle)
    (hc : Tag.ofCode c = some t) (p0 p1 : Byte) :
    exec (.sendCmd c p0 p1) s = .next (startCommand .cmd t p0 p1 s) := by
  simp only [exec, execSendCmd, whenReady_of_idle hi, hc]

theorem exec_sendCmd_of_reserved {s : State} {c : BitVec 5} (hi : s.phase = .idle) (hc : Tag.ofCode c = none)
    (p0 p1 : Byte) : exec (.sendCmd c p0 p1) s = .next (raiseFault .badTag s) := by
  simp only [exec, execSendCmd, whenReady_of_idle hi, hc]

theorem exec_sendData_of_idle {s : State} (hi : s.phase = .idle) (d : Data8) :
    exec (.sendData d) s = .next (startTransaction .data (dataFrame s.params d.toList) s) :=
  whenReady_of_idle hi _

/-- Settles O16: the frame's length is its class's, so TXLEN bounds exactly the frame. -/
theorem sendCmdStarts : Obligations.SendCmdStarts := by
  intro s c t p0 p1 hi hc
  refine ⟨_, ?_, take_frame_append s.params t p0 p1 (s.txbuf.drop t.arity.frameLen)⟩
  rw [exec_sendCmd_of_tag hi hc, startCommand, startTransaction, frame_length]

/-- Settles O19: SEND_DATA starts the transaction of its nine bytes. -/
theorem sendDataStarts : Obligations.SendDataStarts := fun _ d hi => exec_sendData_of_idle hi d

/-! ### From the presentation to the response -/

theorem decodeRequest_of_sendCmd {r : Request} (h : r.op = 0) : decodeRequest r = .ok (.sendCmd r.tag r.p0 r.p1) := by
  simp [decodeRequest, h]

theorem decodeRequest_of_sendData {r : Request} (h : r.op = 1) : decodeRequest r = .ok (.sendData r.data) := by
  simp [decodeRequest, h]

/-- The bus's answer of a SEND_CMD or SEND_DATA is the response (42_bus R161, R162). -/
theorem answered_of_sent {r : Result} {s : State} (h : s.phase = .cmd ∨ s.phase = .data) :
    answered r s = .next (respond r s) := by
  rcases h with h | h <;> simp only [answered, h, sendAnswered]

/-- A request that starts its one transaction in PHASE CMD or DATA is complete in the next step, with the bus's
answer as response. -/
theorem runSteps_of_sent {s : State} {r : Request} {rest : List Request} {i : Instr} {ph : Phase}
    {bytes : List Byte} {ans : Result} {more : List Result} (hq : quietPorts s) (hi : s.phase = .idle)
    (hr : s.hostReqs = r :: rest) (hd : decodeRequest r = .ok i) (hph : ph = .cmd ∨ ph = .data)
    (hstart : exec i (accept (.request r) s) = .next (startTransaction ph bytes (accept (.request r) s)))
    (hb : s.busIn = ans :: more) :
    runSteps 2 s = .next { s with
      hostReqs := rest
      busIn := more
      req := none
      txbuf := bytes ++ s.txbuf.drop bytes.length
      txlen := BitVec.ofNat 4 bytes.length
      busLog := s.busLog ++ [⟨s.cfgAddr, bytes⟩]
      respLog := s.respLog ++ [ans] } := by
  have hon : ph.onBus = true := by rcases hph with rfl | rfl <;> rfl
  have hstarted := (step_of_request hq hi hr hd).trans hstart
  have hresponded := (step_of_answer (s := startTransaction ph bytes (accept (.request r) s)) hq hon hb).trans
    (answered_of_sent hph)
  rw [runSteps_succ_of_next 1 hstarted, runSteps_succ_of_next 0 hresponded, runSteps_zero]
  simp [respond, startTransaction, accept, hr, hi]

/-- Settles O18: a tag's frame is the one transaction, a reserved tag faults in the step that accepts it. -/
theorem sendCmdAnswersVerbatim : Obligations.SendCmdAnswersVerbatim := by
  intro s r rest hq hi hr hop
  have hd := decodeRequest_of_sendCmd hop
  refine ⟨fun t ans more ht hb => ?_, fun ht => ?_⟩
  · refine ⟨_, ?_, take_frame_append s.params t r.p0 r.p1 (s.txbuf.drop t.arity.frameLen)⟩
    have hstart := exec_sendCmd_of_tag (s := accept (.request r) s) hi ht r.p0 r.p1
    rw [runSteps_of_sent hq hi hr hd (.inl rfl) hstart hb, frame_length]
    rfl
  · rw [step_of_request hq hi hr hd, exec_sendCmd_of_reserved (s := accept (.request r) s) hi ht]
    simp [raiseFault, accept, hr]

/-- Settles O20: the nine bytes are the one transaction. -/
theorem sendDataAnswersVerbatim : Obligations.SendDataAnswersVerbatim := by
  intro s r rest ans more hq hi hr hop hb
  exact runSteps_of_sent hq hi hr (decodeRequest_of_sendData hop) (.inr rfl)
    (exec_sendData_of_idle (s := accept (.request r) s) hi r.data) hb

end Sys2Proof.Machine
end

section
/-! SUPPORT. The bus and flush family, a FLUSH up to its first chunk (42_bus R163 to R168): the geometry fault,
the two windows and what their errors do. -/

namespace Sys2Proof.Machine

/-! ### Accepting a FLUSH -/

theorem flushable_iff (s : State) : flushable s = true ↔ s.stride.toNat % 8 = 0 := by simp [flushable]

/-- In a flush STRIDE is a multiple of 8 (42_bus R163). -/
theorem BlockInv.stride_mod_of_flush {s : State} (h : BlockInv s) (hp : s.phase.inFlush = true) :
    s.stride.toNat % 8 = 0 := (flushable_iff s).1 (h.seq.flushLegal hp)

theorem exec_flush_of_flushable {s : State} (hi : s.phase = .idle) (hf : s.stride.toNat % 8 = 0) :
    exec .flush s = .next (startCommand .flCol .columnAddress 0 s.halfwidth (clearErr s)) := by
  simp only [exec, execFlush, whenReady_of_idle hi, if_pos ((flushable_iff s).2 hf)]

theorem exec_flush_of_not_flushable {s : State} (hi : s.phase = .idle) (hf : s.stride.toNat % 8 ≠ 0) :
    exec .flush s = .next (raiseFault .flushGeometry s) := by
  simp only [exec, execFlush, whenReady_of_idle hi, if_neg (mt (flushable_iff s).1 hf)]

theorem decodeRequest_of_flush {r : Request} (h : r.op = 4) : decodeRequest r = .ok .flush := by
  simp [decodeRequest, h]

/-- STRIDE is half of an even WIDTH, so the two preconditions of 42_bus R163 are one. -/
theorem ConfigInv.stride_mod_eq_zero_iff {s : State} (h : ConfigInv s) :
    s.stride.toNat % 8 = 0 ↔ s.cfgWidth.toNat % 16 = 0 := by
  have := h.stride_toNat
  have := h.widthEven
  omega

/-- Settles O31: the column window is the transaction FLUSH starts from the state with LAST_ERR cleared. -/
theorem flushStartsWithColumnWindow : Obligations.FlushStartsWithColumnWindow := fun s hi hf =>
  ⟨_, exec_flush_of_flushable hi hf, take_frame_append s.params .columnAddress 0 s.halfwidth (s.txbuf.drop 4)⟩

/-- Settles O32: an accepted FLUSH tests STRIDE, of which WIDTH is the double. -/
theorem flushGeometryFaults : Obligations.FlushGeometryFaults := fun _ h hi =>
  ⟨not_congr h.stride_mod_eq_zero_iff,
    fun hw => exec_flush_of_not_flushable hi (mt h.stride_mod_eq_zero_iff.1 hw)⟩

/-! ### The windows are answered -/

/-- Under RECORD a window's error is a success of the state that has recorded it (42_bus R166). -/
theorem answered_err_of_record {s : State} (e : TransportError) (hp : s.phase = .flCol ∨ s.phase = .flRow)
    (hpol : s.params.windowErrPolicy = .record) : answered (.err e) s = answered .ok (recordErr (.err e) s) := by
  rcases hp with hp | hp
  · simp [answered_of_flCol, hp, flushColAnswered, windowAnswer, hpol]
  · simp [answered_of_flRow, hp, flushRowAnswered, windowAnswer, hpol]

/-- Under DISCARD a window's error is a success (42_bus R166). -/
theorem answered_err_of_discard {s : State} (e : TransportError) (hp : s.phase = .flCol ∨ s.phase = .flRow)
    (hpol : s.params.windowErrPolicy = .discard) : answered (.err e) s = answered .ok s := by
  rcases hp with hp | hp
  · simp [answered_of_flCol hp, flushColAnswered, windowAnswer, hpol]
  · simp [answered_of_flRow hp, flushRowAnswered, windowAnswer, hpol]

/-- The step that takes the answer put first at the bus port. -/
theorem step_of_busIn_cons {s : State} (hq : quietPorts s) (hon : s.phase.onBus = true) (r : Result)
    (more : List Result) : step { s with busIn := r :: more } = answered r { s with busIn := more } :=
  step_of_answer (s := { s with busIn := r :: more }) hq hon rfl

/-- Settles O34, policy by policy: the step takes the answer, and each policy has its own equation. -/
theorem windowErrorByPolicy : Obligations.WindowErrorByPolicy := by
  intro s e more hq hp
  have hon : s.phase.onBus = true := by rcases hp with hp | hp <;> rw [hp] <;> rfl
  rw [step_of_busIn_cons hq hon, step_of_busIn_cons hq hon]
  refine ⟨fun hpol => answered_of_windowCut hp hpol, fun hpol => ?_,
    fun hpol => answered_err_of_discard e hp hpol⟩
  exact (answered_err_of_record (s := { s with busIn := more }) e hp hpol).trans
    (step_of_busIn_cons (s := recordErr (.err e) s) hq hon .ok more).symm

/-- What a window's answer that goes on leaves in LAST_ERR, seen as the flush's result (42_bus R166, R170). -/
def windowResult (p : WindowErrPolicy) (before ans : Result) : Result :=
  if p = .record then latestError [before, ans] else before

section
variable {s : State} {r : Result} {more : List Result} (hq : quietPorts s) (hb : s.busIn = r :: more)
  (hgo : s.params.windowErrPolicy = .abort → r = .ok)
include hq hb hgo

/-- After the column window the row window goes out, from the state that has recorded what the policy says
(42_bus R165, R166). -/
theorem step_of_flCol (hp : s.phase = .flCol) :
    ∃ v, (v = { s with busIn := more } ∨ v = recordErr r { s with busIn := more }) ∧
      flushResult v = windowResult s.params.windowErrPolicy (flushResult s) r ∧
      step s = .next (startCommand .flRow .rowAddress 0 s.hmax v) := by
  obtain ⟨v, hv, hvs, hres⟩ := windowAnswer_continues r { s with busIn := more } hgo
  refine ⟨v, hvs, hres, ?_⟩
  rw [step_of_answer hq (by rw [hp]; rfl) hb, answered_of_flCol (s := { s with busIn := more }) hp,
    flushColAnswered, hv]

/-- After the row window chunk 0 goes out with Y = X = 0, from the state that has recorded what the policy says
(42_bus R166 to R168). -/
theorem step_of_flRow (h : BlockInv s) (hp : s.phase = .flRow) :
    ∃ v, (v = { s with busIn := more } ∨ v = recordErr r { s with busIn := more }) ∧
      flushResult v = windowResult s.params.windowErrPolicy (flushResult s) r ∧
      step s = .next (startTransaction .flChunk (chunkTransaction s 0).bytes { v with y := 0, x := 0 }) := by
  obtain ⟨v, hv, hvs, hres⟩ := windowAnswer_continues r { s with busIn := more } hgo
  refine ⟨v, hvs, hres, ?_⟩
  have hfl := h.stride_mod_of_flush (by rw [hp]; rfl)
  have hs := h.config.stride_halfwidth
  have hcfg : sameConfig s { v with y := 0, x := 0 } := by rcases hvs with rfl | rfl <;> simp [sameConfig]
  have hw : v.halfwidth = s.halfwidth := by rcases hvs with rfl | rfl <;> simp
  have hbytes : v.params.ctrlData = s.params.ctrlData ∧ v.fb = s.fb := by rcases hvs with rfl | rfl <;> simp
  rw [step_of_answer hq (by rw [hp]; rfl) hb, answered_of_flRow (s := { s with busIn := more }) hp,
    flushRowAnswered, hv]
  simp only
  rw [startChunk_of_inside (h.config.of_same hcfg) (by simp [hw]; omega) (by simp)]
  simp [chunkTransaction, hbytes]

end

/-- Settles O33: the frame of ROW_ADDRESS is the one transaction, whatever the policy has recorded. -/
theorem rowWindowFollowsColumnWindow : Obligations.RowWindowFollowsColumnWindow := by
  intro s r more hq hp hb hgo
  obtain ⟨v, hv, -, hstep⟩ := step_of_flCol hq hb (fun habort => hgo.resolve_right (absurd habort)) hp
  refine ⟨_, hstep, rfl, ?_⟩
  rcases hv with rfl | rfl <;> simp [encodeCommand, Tag.arity, EncOut.frame, EncOut.array]

/-- Settles O35: chunk 0 is the one transaction, whatever the policy has recorded. -/
theorem chunkLoopStartsAtZero : Obligations.ChunkLoopStartsAtZero := by
  intro s r more h hq hp hb hgo
  obtain ⟨v, hv, -, hstep⟩ := step_of_flRow hq hb (fun habort => hgo.resolve_right (absurd habort)) h hp
  refine ⟨_, hstep, rfl, rfl, rfl, ?_⟩
  rcases hv with rfl | rfl <;> simp [chunkTransaction]

end Sys2Proof.Machine
end

section
/-! SUPPORT. The bus and flush family, the chunk loop (42_bus R167 to R170): where it goes after each answer, and
the number of the chunk on the bus. -/

namespace Sys2Proof.Machine

@[simp] theorem flushResult_startTransaction (ph : Phase) (bs : List Byte) (s : State) :
    flushResult (startTransaction ph bs s) = flushResult s := rfl

@[simp] theorem flushResult_startCommand (ph : Phase) (t : Tag) (a b : Byte) (s : State) :
    flushResult (startCommand ph t a b s) = flushResult s := rfl

@[simp] theorem flushResult_respond (r : Result) (s : State) : flushResult (respond r s) = flushResult s := rfl

/-! ### The answer of a chunk -/

/-- The state that has taken the answer before `more` and recorded it, at row `y` and column `x` (42_bus R167,
R169). -/
def State.chunkAt (s : State) (r : Result) (more : List Result) (y x : Byte) : State :=
  { recordErr r { s with busIn := more } with y := y, x := x }

section
variable (s : State) (r : Result) (more : List Result) (y x : Byte)

@[simp] theorem chunkAt_y : (s.chunkAt r more y x).y = y := rfl
@[simp] theorem chunkAt_x : (s.chunkAt r more y x).x = x := rfl
@[simp] theorem chunkAt_cfgAddr : (s.chunkAt r more y x).cfgAddr = s.cfgAddr := by cases r <;> rfl
@[simp] theorem chunkAt_stride : (s.chunkAt r more y x).stride = s.stride := by cases r <;> rfl
@[simp] theorem chunkAt_fb : (s.chunkAt r more y x).fb = s.fb := by cases r <;> rfl
@[simp] theorem chunkAt_hostReqs : (s.chunkAt r more y x).hostReqs = s.hostReqs := by cases r <;> rfl
@[simp] theorem chunkAt_busIn : (s.chunkAt r more y x).busIn = more := by cases r <;> rfl
@[simp] theorem chunkAt_busLog : (s.chunkAt r more y x).busLog = s.busLog := by cases r <;> rfl
@[simp] theorem chunkAt_respLog : (s.chunkAt r more y x).respLog = s.respLog := by cases r <;> rfl
@[simp] theorem chunkAt_flushResult : flushResult (s.chunkAt r more y x) = flushResult (recordErr r s) := by
  cases r <;> rfl

end

section
variable {s : State} {r : Result} {more : List Result} (h : BlockInv s) (hq : quietPorts s)
  (hp : s.phase = .flChunk) (hb : s.busIn = r :: more)
include h hq hp hb

/-- Everything the answer of a chunk does in an invariant block, the error recorded on the way. -/
theorem step_of_flChunk :
    step s =
      if s.x.toNat + 8 ≤ s.halfwidth.toNat then
        .next (startTransaction .flChunk (s.params.ctrlData :: (List.range 8).map fun k =>
          s.fb.read (s.x.toNat + 8 + s.y.toNat * s.stride.toNat + k))
          (s.chunkAt r more s.y (s.x + 8)))
      else if s.y.toNat < s.hmax.toNat then
        .next (startTransaction .flChunk (s.params.ctrlData :: (List.range 8).map fun k =>
          s.fb.read ((s.y.toNat + 1) * s.stride.toNat + k))
          (s.chunkAt r more (s.y + 1) 0))
      else .next (respond (flushResult (recordErr r s)) (s.chunkAt r more 0 0)) := by
  have hfl := h.stride_mod_of_flush (by rw [hp]; rfl)
  rw [step_of_answer hq (by rw [hp]; rfl) hb, answered_of_flChunk (s := { s with busIn := more }) hp,
    flushChunkAnswered, nextChunkOrDone_advance (h.config.of_same (by simp [sameConfig]))
      (by rw [flushable_iff, recordErr_stride]; exact hfl) (by simpa using h.seq.chunkX hp)
      (by simpa using h.seq.chunkY hp)]
  cases r <;> rfl

end

/-- Settles O36: the three branches of the loop, each with its own state. -/
theorem chunkLoopAdvances : Obligations.ChunkLoopAdvances := by
  intro s r more h hq hp hb
  have hs := h.config.stride_halfwidth
  have hsb := h.config.stride_bounds
  have hh := h.config.height_hmax
  have hhm := h.config.heightMax
  rw [step_of_flChunk h hq hp hb]
  split_ifs with hcol hrow
  · exact ⟨_, rfl, by simp; omega⟩
  · exact ⟨_, rfl, by simp; omega⟩
  · exact ⟨_, rfl, by simp⟩

/-- A successful chunk leaves LAST_ERR as it stands (42_bus R169). -/
theorem AnswerCase.lastErr_of_chunk_ok {s t : State} (h : AnswerCase .ok s t) (hp : s.phase = .flChunk) :
    t.lastErrValid = s.lastErrValid ∧ t.lastErr = s.lastErr := by
  cases h with
  | nextChunk _ bytes hb hy ht | flushDone _ hy ht => simp [ht]
  | windowEnds hw e hr => cases hr
  | sent hw => simp [hp] at hw
  | rowWindow hw | firstChunk hw | initStep hw | initDone hw => simp [hp] at hw

/-- Settles O37: the answer of a chunk is recorded first, and a success records nothing. -/
theorem chunkErrorRecordedAndFlushContinues : Obligations.ChunkErrorRecordedAndFlushContinues := by
  intro s e more hq hp
  have hon : s.phase.onBus = true := by rw [hp]; rfl
  refine ⟨?_, fun t ht => ?_⟩
  · calc step { s with busIn := .err e :: more }
      _ = flushChunkAnswered (.err e) { s with busIn := more } :=
        (step_of_busIn_cons hq hon _ _).trans (answered_of_flChunk hp)
      _ = flushChunkAnswered .ok (recordErr (.err e) { s with busIn := more }) := rfl
      _ = step { recordErr (.err e) s with busIn := .ok :: more } :=
        ((step_of_busIn_cons (s := recordErr (.err e) s) hq hon _ _).trans (answered_of_flChunk hp)).symm
  · rw [step_of_busIn_cons hq hon] at ht
    exact (answered_cases (s := { s with busIn := more }) hon ht).lastErr_of_chunk_ok hp

/-! ### The number of a chunk -/

/-- The number of the chunk at (X, Y): chunks follow one another through the framebuffer (42_bus R171). -/
def chunkNumber (s : State) : Nat := (s.x.toNat + s.y.toNat * s.stride.toNat) / 8

theorem eight_mul_chunkNumber {s : State} (hx : s.x.toNat % 8 = 0) (hs : s.stride.toNat % 8 = 0) :
    8 * chunkNumber s = s.x.toNat + s.y.toNat * s.stride.toNat :=
  Nat.mul_div_cancel' <| (Nat.dvd_of_mod_eq_zero hx).add ((Nat.dvd_of_mod_eq_zero hs).mul_left _)

theorem chunkNumber_of_position {s : State} {k : Nat} (h : 8 * k = s.x.toNat + s.y.toNat * s.stride.toNat) :
    chunkNumber s = k := by
  rw [chunkNumber, ← h, Nat.mul_div_cancel_left k (by decide)]

/-- In a flushable geometry the chunks are the framebuffer, eight bytes each (42_bus R171). -/
theorem eight_mul_nData {s : State} (hs : s.stride.toNat % 8 = 0) : 8 * s.nData = s.fbLen := by
  have hrow : 8 * s.chunksPerRow = s.stride.toNat := by unfold State.chunksPerRow; omega
  rw [State.nData, ← Nat.mul_assoc, hrow, State.fbLen]

/-- A row of the geometry ends inside the framebuffer, the last one at its end. -/
theorem ConfigInv.rowEnd {s : State} (h : ConfigInv s) {y : Nat} :
    (y ≤ s.hmax.toNat → y * s.stride.toNat + s.stride.toNat ≤ s.fbLen) ∧
      (y = s.hmax.toNat → y * s.stride.toNat + s.stride.toNat = s.fbLen) := by
  rw [← Nat.succ_mul, State.fbLen, Nat.mul_comm s.stride.toNat, h.height_hmax]
  exact ⟨fun hy => Nat.mul_le_mul_right _ (Nat.succ_le_succ hy), fun hy => by rw [hy]⟩

end Sys2Proof.Machine
end

section
/-! SUPPORT. The bus and flush family, a whole flush (42_bus R169 to R173): its steps one after another, its end,
and the bytes it carries. -/

namespace Sys2Proof.Machine

/-! ### The chunk loop by chunk numbers -/

/-- The chunk on the bus is number NDATA - 1 exactly in the last columns of the last row (42_bus R170). -/
theorem BlockInv.chunkNumber_last_iff {s : State} (h : BlockInv s) (hp : s.phase = .flChunk) :
    chunkNumber s + 1 = s.nData ↔ ¬ s.x.toNat + 8 ≤ s.halfwidth.toNat ∧ ¬ s.y.toNat < s.hmax.toNat := by
  have hs := h.stride_mod_of_flush (by rw [hp]; rfl)
  obtain ⟨hx, hx8⟩ := h.seq.chunkX hp
  have hy := h.seq.chunkY hp
  have hnum := eight_mul_chunkNumber hx8 hs
  have hlen := eight_mul_nData hs
  have hw := h.config.stride_halfwidth
  obtain ⟨hin, hend⟩ := h.config.rowEnd (y := s.y.toNat)
  obtain ⟨hnext, -⟩ := h.config.rowEnd (y := s.y.toNat + 1)
  rw [Nat.succ_mul] at hnext
  constructor
  · intro hlast
    exact ⟨fun hcol => by have := hin hy; omega, fun hrow => by have := hnext hrow; omega⟩
  · rintro ⟨hcol, hrow⟩
    have := hend (by omega)
    omega

/-- A step of a flush: it takes the answer before `more` and starts the transaction `tr`. -/
structure FlushStep (s t : State) (more : List Result) (tr : Transaction) : Prop where
  step : step s = .next t
  inv : BlockInv t
  ports : quietPorts t
  config : sameConfig s t
  fb : t.fb = s.fb
  hostReqs : t.hostReqs = s.hostReqs
  busIn : t.busIn = more
  busLog : t.busLog = s.busLog ++ [tr]
  respLog : t.respLog = s.respLog

/-- The end of a flush `k` steps on: IDLE with the counters at rest, the answers before `more` taken, the
transactions `trace` emitted and `result` given as response. -/
structure FlushRun (k : Nat) (s t : State) (more : List Result) (trace : List Transaction) (result : Result) :
    Prop where
  run : runSteps k s = .next t
  idle : t.phase = .idle
  latchEmpty : t.req = none
  counters : t.x = 0 ∧ t.y = 0
  fb : t.fb = s.fb
  hostReqs : t.hostReqs = s.hostReqs
  busIn : t.busIn = more
  busLog : t.busLog = s.busLog ++ trace
  respLog : t.respLog = s.respLog ++ [result]
  result : flushResult t = result

/-- Of a step that takes an answer only the transaction has to be shown; the rest no answer changes. -/
theorem FlushStep.of_answer {s t : State} {r : Result} {more : List Result} {tr : Transaction} (h : BlockInv s)
    (hq : quietPorts s) (hon : s.phase.onBus = true) (hb : s.busIn = r :: more) (hstep : Machine.step s = .next t)
    (hlog : t.busLog = s.busLog ++ [tr]) (hresp : t.respLog = s.respLog) : FlushStep s t more tr := by
  have hc := answered_cases (s := { s with busIn := more }) hon ((step_of_answer hq hon hb).symm.trans hstep)
  obtain ⟨hcfg, hfb, -, -, hreqs, hbus, henc, -, hreset⟩ := hc.frame
  exact ⟨hstep, stepKeepsInvariant s t h hstep, ⟨hreset.trans hq.1, henc.trans hq.2⟩, hcfg, hfb, hreqs, hbus,
    hlog, hresp⟩

/-- A step of a flush before the rest of it. -/
theorem FlushRun.cons {k : Nat} {s u t : State} {answers more : List Result} {tr : Transaction}
    {trace : List Transaction} {result : Result} (hu : FlushStep s u answers tr)
    (ht : FlushRun k u t more trace result) : FlushRun (k + 1) s t more (tr :: trace) result where
  run := (runSteps_succ_of_next k hu.step).trans ht.run
  idle := ht.idle
  latchEmpty := ht.latchEmpty
  counters := ht.counters
  fb := ht.fb.trans hu.fb
  hostReqs := ht.hostReqs.trans hu.hostReqs
  busIn := ht.busIn
  busLog := by rw [ht.busLog, hu.busLog, List.append_assoc]; rfl
  respLog := by rw [ht.respLog, hu.respLog]
  result := ht.result

/-- A chunk's transaction reads FB and the configuration only. -/
theorem chunkTransaction_of_same {s t : State} (e : sameConfig s t) (hfb : t.fb = s.fb) :
    chunkTransaction t = chunkTransaction s := by
  obtain ⟨-, -, haddr, hparams, -⟩ := e
  funext k
  simp only [chunkTransaction, haddr, hparams, hfb]

theorem nData_of_same {s t : State} (e : sameConfig s t) : t.nData = s.nData := by
  obtain ⟨-, hh, -, -, -, -, hw⟩ := e
  simp only [State.nData, State.chunksPerRow, State.stride, hh, hw]

section
variable {s : State} {r : Result} {more : List Result} (h : BlockInv s) (hq : quietPorts s)
  (hp : s.phase = .flChunk) (hb : s.busIn = r :: more)
include h hq hp hb

/-- While chunks remain the answer of chunk `k` starts chunk `k + 1`. -/
theorem flushStep_of_flChunk (hne : chunkNumber s + 1 ≠ s.nData) :
    ∃ t, FlushStep s t more (chunkTransaction s (chunkNumber s + 1)) ∧ t.phase = .flChunk ∧
      chunkNumber t = chunkNumber s + 1 ∧ flushResult t = flushResult (recordErr r s) := by
  have hs := h.stride_mod_of_flush (by rw [hp]; rfl)
  obtain ⟨hx, hx8⟩ := h.seq.chunkX hp
  have hnum := eight_mul_chunkNumber hx8 hs
  have hw := h.config.stride_halfwidth
  have hsb := h.config.stride_bounds
  have hh := h.config.height_hmax
  have hhm := h.config.heightMax
  have hon : s.phase.onBus = true := by rw [hp]; rfl
  have hstep := step_of_flChunk h hq hp hb
  split_ifs at hstep with hcol hrow
  · have hk : 8 * (chunkNumber s + 1) = s.x.toNat + 8 + s.y.toNat * s.stride.toNat := by omega
    have hx' : (s.x + 8).toNat = s.x.toNat + 8 := by bv_omega
    exact ⟨_, .of_answer h hq hon hb hstep (by simp [chunkTransaction, hk]) (by simp), rfl,
      chunkNumber_of_position (by rw [hk, ← hx']; simp), by simp⟩
  · have hy := Nat.add_one_mul s.y.toNat s.stride.toNat
    have hk : 8 * (chunkNumber s + 1) = (s.y.toNat + 1) * s.stride.toNat := by omega
    have hy' : (s.y + 1).toNat = s.y.toNat + 1 := by bv_omega
    exact ⟨_, .of_answer h hq hon hb hstep (by simp [chunkTransaction, hk]) (by simp), rfl,
      chunkNumber_of_position (by rw [hk, ← hy']; simp), by simp⟩
  · exact absurd ((h.chunkNumber_last_iff hp).2 ⟨hcol, hrow⟩) hne

/-- The answer of the last chunk ends the flush (42_bus R170). -/
theorem flushRun_of_lastChunk (hlast : chunkNumber s + 1 = s.nData) :
    ∃ t, FlushRun 1 s t more [] (flushResult (recordErr r s)) := by
  obtain ⟨hcol, hrow⟩ := (h.chunkNumber_last_iff hp).1 hlast
  have hstep := step_of_flChunk h hq hp hb
  rw [if_neg hcol, if_neg hrow] at hstep
  exact ⟨_, runSteps_succ_of_next 0 hstep, rfl, rfl, ⟨rfl, rfl⟩, by simp, by simp, by simp, by simp, by simp,
    by simp⟩

end

/-- The chunk loop from chunk `k` on, by induction on the answers still to come: every later chunk goes out in
order, and the response is the latest error recorded. -/
theorem flushRun_of_flChunk {more : List Result} (chunks : List Result) {s : State} {r : Result} (h : BlockInv s)
    (hq : quietPorts s) (hp : s.phase = .flChunk) (hb : s.busIn = r :: (chunks ++ more))
    (hn : chunkNumber s + 1 + chunks.length = s.nData) :
    ∃ t, FlushRun (chunks.length + 1) s t more
      ((List.range' (chunkNumber s + 1) chunks.length).map (chunkTransaction s))
      (latestError (flushResult s :: r :: chunks)) := by
  induction chunks generalizing s r with
  | nil =>
    rw [latestError_record]
    exact flushRun_of_lastChunk h hq hp hb hn
  | cons c chunks ih =>
    rw [List.length_cons] at hn ⊢
    obtain ⟨u, hu, hpu, hnu, hres⟩ := flushStep_of_flChunk h hq hp hb (by omega)
    obtain ⟨t, ht⟩ := ih hu.inv hu.ports hpu hu.busIn (by rw [hnu, nData_of_same hu.config]; omega)
    rw [hnu, hres, chunkTransaction_of_same hu.config hu.fb] at ht
    rw [latestError_record, List.range'_succ]
    exact ⟨t, ht.cons hu⟩

/-! ### The whole flush -/

theorem latestError_ok_cons (rest : List Result) : latestError (.ok :: rest) = latestError rest := by
  rw [latestError]
  cases latestError rest <;> rfl

/-- Of the errors before the rest only the latest counts (42_bus R169). -/
theorem latestError_fold (a b : Result) (rest : List Result) :
    latestError (latestError [a, b] :: rest) = latestError (a :: b :: rest) := by
  simp only [latestError]
  cases latestError rest <;> cases b <;> rfl

/-- The recorded answers of a flush, folded window by window as LAST_ERR is (42_bus R166, R169). -/
theorem latestError_recordedAnswers (p : WindowErrPolicy) (col row : Result) (chunks : List Result) :
    latestError (windowResult p (windowResult p .ok col) row :: chunks) =
      latestError (recordedAnswers p col row chunks) := by
  cases p with
  | record =>
    simp only [windowResult, recordedAnswers, if_true]
    rw [latestError_fold, latestError_fold, latestError_ok_cons]
  | abort | discard => simp [windowResult, recordedAnswers, latestError_ok_cons]

section
variable {s : State} {r : Result} {more : List Result} (h : BlockInv s) (hq : quietPorts s)
  (hb : s.busIn = r :: more) (hgo : s.params.windowErrPolicy = .abort → r = .ok)
include h hq hb hgo

/-- The answer of the column window that goes on starts the row window. -/
theorem flushStep_of_flCol (hp : s.phase = .flCol) :
    ∃ t, FlushStep s t more (commandTransaction s .rowAddress 0 s.hmax) ∧ t.phase = .flRow ∧
      flushResult t = windowResult s.params.windowErrPolicy (flushResult s) r := by
  obtain ⟨v, hv, hres, hstep⟩ := step_of_flCol hq hb hgo hp
  refine ⟨_, .of_answer h hq (by rw [hp]; rfl) hb hstep ?_ ?_, rfl, hres⟩
  all_goals rcases hv with rfl | rfl <;> simp [commandTransaction]

/-- The answer of the row window that goes on starts chunk 0. -/
theorem flushStep_of_flRow (hp : s.phase = .flRow) :
    ∃ t, FlushStep s t more (chunkTransaction s 0) ∧ t.phase = .flChunk ∧ chunkNumber t = 0 ∧
      flushResult t = windowResult s.params.windowErrPolicy (flushResult s) r := by
  obtain ⟨v, hv, hres, hstep⟩ := step_of_flRow hq hb hgo h hp
  refine ⟨_, .of_answer h hq (by rw [hp]; rfl) hb hstep ?_ ?_, rfl, by simp [chunkNumber], hres⟩
  all_goals rcases hv with rfl | rfl <;> simp [chunkTransaction]

end

/-- From the column window to the response: the row window, then the chunks from 0 on. -/
theorem flushRun_of_flCol {s : State} {col row : Result} {chunks more : List Result} (h : BlockInv s)
    (hq : quietPorts s) (hp : s.phase = .flCol) (hb : s.busIn = col :: row :: (chunks ++ more))
    (hlen : chunks.length = s.nData) (hgo : s.params.windowErrPolicy = .abort → col = .ok ∧ row = .ok) :
    ∃ t, FlushRun (s.nData + 2) s t more
      (commandTransaction s .rowAddress 0 s.hmax :: (List.range s.nData).map (chunkTransaction s))
      (latestError (windowResult s.params.windowErrPolicy
        (windowResult s.params.windowErrPolicy (flushResult s) col) row :: chunks)) := by
  have hpos : 0 < s.nData := by
    have := eight_mul_nData (h.stride_mod_of_flush (by rw [hp]; rfl))
    have := h.config.rowEnd.1 (Nat.zero_le _)
    have := h.config.stride_bounds
    omega
  obtain ⟨u, hu, hpu, hresu⟩ := flushStep_of_flCol h hq hb (fun ha => (hgo ha).1) hp
  obtain ⟨-, -, -, hparams, -⟩ := hu.config
  obtain ⟨v, hv, hpv, hnv, hresv⟩ :=
    flushStep_of_flRow hu.inv hu.ports hu.busIn (fun ha => (hgo (hparams ▸ ha)).2) hpu
  cases chunks with
  | nil => simp only [List.length_nil] at hlen; omega
  | cons c chunks =>
    obtain ⟨t, ht⟩ := flushRun_of_flChunk chunks hv.inv hv.ports hpv hv.busIn
      (by rw [hnv, nData_of_same hv.config, nData_of_same hu.config, ← hlen, List.length_cons]; omega)
    rw [hnv, hresv, hparams, hresu, chunkTransaction_of_same hv.config hv.fb] at ht
    have hrun := (ht.cons hv).cons hu
    rw [chunkTransaction_of_same hu.config hu.fb, ← List.map_cons, ← List.range'_succ] at hrun
    rw [← hlen, List.length_cons, List.range_eq_range']
    exact ⟨t, hrun⟩

/-- Settles O38: the request, then the run from the column window to the response. -/
theorem wholeFlushTrace : Obligations.WholeFlushTrace := by
  intro s r rest col row chunks more h hq hi hr hop hw hb hlen hgo
  have hfl := h.config.stride_mod_eq_zero_iff.2 hw
  have hstart := (step_of_request hq hi hr (decodeRequest_of_flush hop)).trans
    (exec_flush_of_flushable (s := accept (.request r) s) hi hfl)
  obtain ⟨t, ht⟩ := flushRun_of_flCol (stepKeepsInvariant _ _ h hstart) hq rfl hb hlen hgo
  have hresult := latestError_recordedAnswers s.params.windowErrPolicy col row chunks
  refine ⟨t, ?_, ht.idle, ht.latchEmpty, ht.hostReqs.trans (by simp [hr]), ht.busIn, ht.fb, ht.counters.1,
    ht.counters.2, ?_, ?_, ?_, ht.result.trans hresult⟩
  · rw [Nat.add_comm]
    exact (runSteps_succ_of_next _ hstart).trans ht.run
  · exact ht.busLog.trans (List.append_assoc ..)
  · simp [flushTrace]
    omega
  · exact ht.respLog.trans (by rw [← hresult]; rfl)

/-! ### The bytes of a flush -/

/-- Blocks of eight consecutive values, one after another, are the values in order. -/
theorem flatten_map_range_eight {α : Type} (f : Nat → α) (n : Nat) :
    ((List.range n).map fun k => (List.range 8).map fun j => f (8 * k + j)).flatten = (List.range (8 * n)).map f := by
  induction n with
  | zero => rfl
  | succ n ih =>
    rw [List.range_succ (n := n), List.map_append, List.flatten_append, ih, Nat.mul_succ, List.range_add,
      List.map_append]
    simp [Function.comp_def]

/-- Settles O39: chunk `k` carries bytes `8k` to `8k + 7`. -/
theorem flushCarriesEveryByteOnce : Obligations.FlushCarriesEveryByteOnce := by
  intro s h hw
  have hn := eight_mul_nData (h.stride_mod_eq_zero_iff.2 hw)
  refine ⟨hn, ?_⟩
  rw [← hn, ← flatten_map_range_eight]
  simp [flushTrace, chunkTransaction, Function.comp_def]

end Sys2Proof.Machine
end

section
/-! SUPPORT. The init sequencer's family (43_init R190 to R196): the script and its trace, what accepting INIT and
each answer of a step do, and a whole INIT. -/

namespace Sys2Proof.Machine

/-! ### The script's trace -/

theorem length_initTrace (s : State) : (initTrace s).length = 19 := rfl

/-- One transaction a command, at the command's place in the script (43_init R191). -/
theorem getElem?_initTrace (s : State) (k : Nat) :
    (initTrace s)[k]? = ((initScript s.params s.halfwidth s.hmax)[k]?).map
      fun c => commandTransaction s c.1 c.2.1 c.2.2 :=
  List.getElem?_map

/-- Each frame is as long as its command's class says, whatever the parameters (43_init R195). -/
theorem map_length_initTrace (s : State) :
    (initTrace s).map (fun t => t.bytes.length) =
      [3, 2, 4, 4, 3, 3, 3, 3, 2, 3, 3, 2, 3, 3, 3, 3, 3, 3, 2] := by
  simp [initTrace, initScript, commandTransaction, Tag.arity, ArityClass.frameLen]

/-- Settles O43: the trace maps the script, so its lengths are those of the commands' frames. -/
theorem initScriptCounts : Obligations.InitScriptCounts := by
  intro s
  refine ⟨rfl, length_initTrace s, fun k c hc => ?_, map_length_initTrace s, ?_⟩
  · rw [getElem?_initTrace, hc]
    rfl
  · rw [map_length_initTrace]
    rfl

/-! ### Accepting INIT -/

theorem exec_init_of_idle {s : State} (hi : s.phase = .idle) :
    exec .init s = .next (startCommand .init .unlock 0 0 { s with initStep := 0 }) :=
  whenReady_of_idle hi _

theorem decodeRequest_of_init {r : Request} (h : r.op = 5) : decodeRequest r = .ok .init := by
  simp [decodeRequest, h]

/-- Settles O40: UNLOCK, of class F, is the transaction INIT starts. -/
theorem initStartsWithUnlock : Obligations.InitStartsWithUnlock := fun s hi =>
  ⟨_, exec_init_of_idle hi, take_frame_append s.params .unlock 0 0 (s.txbuf.drop 3)⟩

/-! ### The answer of an init step -/

/-- The answer is taken and STEP moves on, whatever the answer is (43_init R191). -/
theorem step_of_init {s : State} {r : Result} {more : List Result} (hq : quietPorts s) (hp : s.phase = .init)
    (hb : s.busIn = r :: more) :
    step s = .next (initNext { s with busIn := more, initStep := s.initStep + 1 }) := by
  rw [step_of_answer hq (by rw [hp]; rfl) hb, answered_of_init (s := { s with busIn := more }) hp, initAnswered]

/-- Settles O41: the step is the same for every answer, and no answer of an init step is recorded. -/
theorem initDiscardsAnswers : Obligations.InitDiscardsAnswers := by
  intro s a b more hq hp
  have hstep (r : Result) := step_of_init (s := { s with busIn := r :: more }) hq hp rfl
  refine ⟨(hstep a).trans (hstep b).symm, _, hstep a, ?_⟩
  have hon : s.phase.onBus = true := by rw [hp]; rfl
  have hc := answered_cases (s := { s with busIn := more }) hon
    ((step_of_busIn_cons hq hon a more).symm.trans (hstep a))
  obtain ⟨-, hfb, -⟩ := hc.frame
  exact ⟨hfb, hc.lastErr.resolve_left (by simp [hp, Phase.inFlush])⟩

/-- While the script has a step at STEP its command goes out (43_init R190). -/
theorem initNext_of_command {s : State} {c : Tag × Byte × Byte}
    (h : (initScript s.params s.halfwidth s.hmax)[s.initStep.toNat]? = some c) :
    initNext s = startCommand .init c.1 c.2.1 c.2.2 s := by
  simp only [initNext, h]

/-- Past the script's last step INIT responds OK (43_init R192). -/
theorem initNext_of_end {s : State} (h : (initScript s.params s.halfwidth s.hmax)[s.initStep.toNat]? = none) :
    initNext s = respond .ok { s with initStep := 0 } := by
  simp only [initNext, h]

/-! ### A whole INIT -/

/-- The end of an INIT `k` steps on: IDLE with STEP at rest and response OK, the answers before `more` taken, the
transactions `trace` emitted, FB, LAST_ERR and FAULTED as they were (43_init R192, R193). -/
structure InitRun (k : Nat) (s t : State) (more : List Result) (trace : List Transaction) : Prop where
  run : runSteps k s = .next t
  idle : t.phase = .idle
  latchEmpty : t.req = none
  stepRest : t.initStep = 0
  hostReqs : t.hostReqs = s.hostReqs
  busIn : t.busIn = more
  busLog : t.busLog = s.busLog ++ trace
  respLog : t.respLog = s.respLog ++ [.ok]
  fb : t.fb = s.fb
  lastErrValid : t.lastErrValid = s.lastErrValid
  lastErr : t.lastErr = s.lastErr
  faulted : t.faulted = s.faulted

/-- The state that has taken the answer before `more` and sent the script's next command `c`. -/
def State.initAt (s : State) (more : List Result) (c : Tag × Byte × Byte) : State :=
  startCommand .init c.1 c.2.1 c.2.2 { s with busIn := more, initStep := s.initStep + 1 }

theorem step_of_init_command {s : State} {r : Result} {more : List Result} {c : Tag × Byte × Byte}
    (hq : quietPorts s) (hp : s.phase = .init) (hb : s.busIn = r :: more)
    (hc : (initScript s.params s.halfwidth s.hmax)[(s.initStep + 1).toNat]? = some c) :
    step s = .next (s.initAt more c) := by
  rw [step_of_init hq hp hb, initNext_of_command hc]
  rfl

theorem step_of_init_end {s : State} {r : Result} {more : List Result} (hq : quietPorts s) (hp : s.phase = .init)
    (hb : s.busIn = r :: more)
    (hc : (initScript s.params s.halfwidth s.hmax)[(s.initStep + 1).toNat]? = none) :
    step s = .next (respond .ok { s with busIn := more, initStep := 0 }) := by
  rw [step_of_init hq hp hb, initNext_of_end hc]

/-- The trace from a command's place on begins with the command's transaction. -/
theorem drop_initTrace {s : State} {k : Nat} {c : Tag × Byte × Byte}
    (hc : (initScript s.params s.halfwidth s.hmax)[k]? = some c) :
    (initTrace s).drop k = commandTransaction s c.1 c.2.1 c.2.2 :: (initTrace s).drop (k + 1) := by
  obtain ⟨hk, rfl⟩ := List.getElem?_eq_some_iff.1 hc
  rw [initTrace, ← List.map_drop, ← List.map_drop, List.drop_eq_getElem_cons hk, List.map_cons]

/-- A step of the script before the rest of it. -/
theorem InitRun.cons {k : Nat} {s t : State} {answers more : List Result} {c : Tag × Byte × Byte}
    {trace : List Transaction} (hstep : step s = .next (s.initAt answers c))
    (ht : InitRun k (s.initAt answers c) t more trace) :
    InitRun (k + 1) s t more (commandTransaction s c.1 c.2.1 c.2.2 :: trace) :=
  { ht with
    run := (runSteps_succ_of_next k hstep).trans ht.run
    busLog := ht.busLog.trans (List.append_assoc ..) }

/-- The script from the step on the bus on, by induction on the answers after the next one: every later command
goes out in order, and after the answer of the last one INIT responds OK. -/
theorem initRun_of_init {more : List Result} (answers : List Result) {s : State} {r : Result}
    (hq : quietPorts s) (hp : s.phase = .init) (hb : s.busIn = r :: (answers ++ more))
    (hn : s.initStep.toNat + 1 + answers.length = 19) :
    ∃ t, InitRun (answers.length + 1) s t more ((initTrace s).drop (s.initStep.toNat + 1)) := by
  induction answers generalizing s r with
  | nil =>
    rw [List.length_nil] at hn
    have hstep := step_of_init_end hq hp hb ((initScript_next_none_iff (by omega)).2 (by bv_omega))
    rw [hn, List.drop_eq_nil_of_le (length_initTrace s).le]
    exact ⟨_, runSteps_succ_of_next 0 hstep, rfl, rfl, rfl, rfl, rfl, (List.append_nil _).symm, rfl, rfl, rfl,
      rfl, rfl⟩
  | cons a answers ih =>
    rw [List.length_cons] at hn ⊢
    have hnext : (s.initStep + 1).toNat = s.initStep.toNat + 1 := by bv_omega
    have hmore : (initScript s.params s.halfwidth s.hmax)[(s.initStep + 1).toNat]? ≠ none :=
      mt (initScript_next_none_iff (by omega)).1 (by bv_omega)
    obtain ⟨c, hc⟩ := Option.ne_none_iff_exists'.1 hmore
    obtain ⟨t, ht⟩ := ih (s := s.initAt (a :: (answers ++ more)) c) hq rfl rfl
      (by simp only [State.initAt, startCommand_initStep, hnext]; omega)
    rw [← hnext, drop_initTrace hc]
    exact ⟨t, .cons (step_of_init_command hq hp hb hc) ht⟩

/-- Settles O42: the request, then the script from UNLOCK's answer on. -/
theorem wholeInitTrace : Obligations.WholeInitTrace := by
  intro s r rest answers more hq hi hr hop hb hlen
  have hstart := (step_of_request hq hi hr (decodeRequest_of_init hop)).trans
    (exec_init_of_idle (s := accept (.request r) s) hi)
  cases answers with
  | nil => cases hlen
  | cons a answers =>
    rw [List.length_cons] at hlen
    obtain ⟨t, ht⟩ := initRun_of_init (more := more) answers (r := a)
      (s := startCommand .init .unlock 0 0 { accept (.request r) s with initStep := 0 }) hq rfl hb (by simp; omega)
    rw [hlen] at ht
    exact ⟨t, (runSteps_succ_of_next 19 hstart).trans ht.run, ht.idle, ht.latchEmpty, ht.stepRest,
      ht.hostReqs.trans (by simp [hr]), ht.busIn, ht.busLog.trans (List.append_assoc ..), ht.respLog, ht.fb,
      ht.lastErrValid, ht.lastErr, ht.faulted⟩

end Sys2Proof.Machine
end

section
/-! SUPPORT. The exceptions' family (60_exceptions R214, R215): the refused constructions, the two faults raised by
a reserved code, and the FAULT phase. -/

namespace Sys2Proof.Machine

/-! ### Refused constructions -/

theorem isCommandControl_eq_false_iff (b : Byte) : isCommandControl b = false ↔ ¬ (b = 0x80 ∨ b = 0x00) := by
  simp [isCommandControl]

/-- The width a construction refuses is odd, zero or too large (00_scope R6). -/
theorem illegalWidth_iff (w : Nat) : (w % 2 ≠ 0 ∨ w < 2 ∨ 128 < w) ↔ (w % 2 = 1 ∨ w = 0 ∨ 128 < w) := by omega

/-- Settles O48: `checkConfig` tests the lines of R6 in the statement's order, the first three in other words, and
a construction takes its answer. -/
theorem illegalConfigurationRefused : Obligations.IllegalConfigurationRefused := by
  intro c contents
  simp only [construct, checkConfig, illegalWidth_iff, Nat.lt_one_iff, isCommandControl_eq_false_iff]
  split_ifs <;> rfl

/-! ### Reserved codes -/

/-- Settles O17: a code of 25 or more selects no tag. -/
theorem sendCmdBadTagFaults : Obligations.SendCmdBadTagFaults := fun _ c p0 p1 hi hc =>
  exec_sendCmd_of_reserved hi ((Tag.ofCode_eq_none_iff c).2 hc) p0 p1

/-- In IDLE with quiet ports a step takes a request that is no instruction too, and rejects it. -/
theorem step_of_rejectedRequest {s : State} {r : Request} {rest : List Request} {why : Reject} (hq : quietPorts s)
    (hi : s.phase = .idle) (hr : s.hostReqs = r :: rest) (hd : decodeRequest r = .error why) :
    step s = rejectWord why (accept (.request r) s) := by
  obtain ⟨hreset, henc⟩ := hq
  simp [step, hreset, fetch_of_idle henc hi, hr, decode, hd]

/-- Settles O44: the request is latched and rejected, which raises BAD_OP. -/
theorem reservedRequestFaults : Obligations.ReservedRequestFaults := by
  intro s r rest hq hi hr hop
  rw [step_of_rejectedRequest hq hi hr (decodeRequest_of_reserved hop)]
  simp [rejectWord, raiseFault, accept, hr]

/-! ### The FAULT phase -/

/-- A query at the encoder port is consumed and drives the port's output, in every phase; nothing else moves
(10_state R35). -/
theorem step_drives_of_query {s : State} {q : EncQuery} (hr : s.resetPort = none) (he : s.encPort = some q) :
    ∃ out, step s = .next (driveEncoder out (accept (.query q) s)) := by
  simp only [step, hr, fetch_of_query he, decode, decodeQuery]
  cases Tag.ofCode q.tag with
  | some t => exact ⟨_, exec_instrOfTag ..⟩
  | none => exact ⟨_, rfl⟩

/-- In FAULT no request is read and no transaction is on the bus, so with quiet ports a step waits. -/
theorem step_of_fault {s : State} (hq : quietPorts s) (hp : s.phase = .fault) : step s = .next s := by
  obtain ⟨hr, he⟩ := hq
  have hf : fetch s = none := fetch_of_busy he (by simp [hp])
  simp [step, hr, hf, advance, hp, Phase.onBus]

/-- Settles O45: a query moves its port only, and without one a step in FAULT waits. -/
theorem faultPhaseIsTerminal : Obligations.FaultPhaseIsTerminal := by
  intro s hr hp
  cases he : s.encPort with
  | some q =>
    obtain ⟨out, hstep⟩ := step_drives_of_query hr he
    exact ⟨_, hstep, rfl, nofun⟩
  | none => exact ⟨s, step_of_fault ⟨hr, he⟩ hp, by rw [← he], fun _ => rfl⟩

end Sys2Proof.Machine
end

section
/-! SUPPORT. The reset's family (70_reset R240): what a legal construction builds, and what the event leaves of the
state it finds. -/

namespace Sys2Proof.Machine

/-! ### The block a construction builds -/

/-- A construction builds a block exactly for a legal configuration (60_exceptions R214). -/
theorem construct_eq_ok_iff (c : BlockConfig) (contents : List Byte) (b : State) :
    construct c contents = .ok b ↔ checkConfig c = none ∧ b = build c contents := by
  unfold construct
  cases checkConfig c with
  | none => simp [eq_comm]
  | some why => simp

theorem construct_of_legal {c : BlockConfig} (contents : List Byte) (h : checkConfig c = none) :
    construct c contents = .ok (build c contents) :=
  (construct_eq_ok_iff c contents _).2 ⟨h, rfl⟩

/-- FBLEN of a constructed block (00_scope R7). -/
theorem build_fbLen {c : BlockConfig} (contents : List Byte) (h : checkConfig c = none) :
    (build c contents).fbLen = bufferSize c.width c.height := by
  obtain ⟨hw, hh, -⟩ := build_registers contents h
  obtain ⟨hlen, -⟩ := bufferSizeIsFblen.1 _ (build_configInv contents h)
  rw [hlen, hw, hh]

/-- FB of a constructed block holds its contents up to FBLEN, and a missing byte is unlisted (10_state R37). -/
theorem build_fb_read (c : BlockConfig) (contents : List Byte) (i : Nat) :
    (build c contents).fb.read i =
      (contents.take (bufferSize c.width c.height)).getD i Memory.unlisted := by
  simpa [build] using Memory.read_ofBytes 0 (contents.take (bufferSize c.width c.height)) i

/-- A legal construction meets the block invariant, whatever the framebuffer happens to hold. -/
theorem build_blockInv {c : BlockConfig} (contents : List Byte) (h : checkConfig c = none) :
    BlockInv (build c contents) where
  config := build_configInv contents h
  fb := build_fbInv contents h
  seq := .of_idle rfl ⟨rfl, rfl⟩ rfl rfl rfl
  bus := .of_offBus rfl rfl

/-- Settles O47: the configuration and geometry registers are the built block's, FB reads as the contents because
they are FBLEN bytes, and the rest is the reset state's. -/
theorem constructionLoadsEveryRegister : Obligations.ConstructionLoadsEveryRegister := by
  intro c contents hc hlen
  have hsize : contents.length = bufferSize c.width c.height := hlen
  obtain ⟨hw, hh, hwmax, hhmax, hhalf⟩ := build_registers contents hc
  have hread : ∀ i, (build c contents).fb.read i = contents.getD i 0 := fun i => by
    rw [build_fb_read, ← hsize, List.take_length, Memory.unlisted]
  exact ⟨build c contents, construct_of_legal contents hc, hw, hh, rfl, rfl, hwmax, hhmax, hhalf,
    (build_fbLen contents hc).trans hsize.symm, fun i _ => hread i, rfl, rfl, rfl, rfl, rfl, rfl, rfl, rfl, rfl,
    build_blockInv contents hc⟩

/-! ### The construction event -/

/-- The state after a construction event is the new block between the ports and records of the old one (entry 11). -/
theorem takeReset_of_ok {ev : ResetEvent} {b : State} (s : State)
    (h : construct ev.config ev.contents = .ok b) :
    takeReset ev s = .next { b with
      hostReqs := s.hostReqs, busIn := s.busIn, encPort := s.encPort, encOut := s.encOut, resetPort := none,
      busLog := s.busLog, respLog := s.respLog } := by
  simp only [takeReset, h]

theorem takeReset_of_error {ev : ResetEvent} {why : Refusal} (s : State)
    (h : construct ev.config ev.contents = .error why) : takeReset ev s = .refused why := by
  simp only [takeReset, h]

/-- Settles O49: in every state the step is the construction event's, and the block it answers is the built one,
whose sequencer is the reset state's. -/
theorem constructionLeavesAnyPhase : Obligations.ConstructionLeavesAnyPhase := by
  intro s ev hr
  refine ⟨fun b hb => ?_, fun why hw => (step_of_construction hr).trans (takeReset_of_error s hw)⟩
  have hstep := (step_of_construction hr).trans (takeReset_of_ok s hb)
  obtain ⟨-, rfl⟩ := (construct_eq_ok_iff _ _ _).1 hb
  exact ⟨_, hstep, rfl, rfl, rfl, rfl, rfl, rfl, rfl, rfl, by simp [sameConfig], rfl, rfl, rfl, rfl, rfl, rfl, rfl,
    rfl⟩

end Sys2Proof.Machine
end
